-- ==== Sys2Proof/Word.lean ====
section
/-! DEFINITION. The machine's word types: bytes, 32-bit words, the 80-bit command word and the 40-bit response
word (spec/00_scope.md R5, R6, R7; spec/30_encoding.md R47, R59). -/

namespace Sys2Proof

/-- A byte: a lane, a slot of the pending buffer, the running total (R15, R47). -/
abbrev Byte := BitVec 8

/-- A 32-bit word: a hash register, a message word, the digest word (R5, R16). -/
abbrev Word := BitVec 32

/-- A command word of format CMD80 (R47); bit 0 is its least-significant bit (R7). -/
abbrev CmdWord := BitVec 80

/-- A response word of format RSP40 (R59). -/
abbrev RspWord := BitVec 40

end Sys2Proof
end

