-- ==== Sys2Proof/Syntax.lean ====
section
/-! DEFINITION. The commands of the core as data: one constructor per row of spec/opcode_table.json (R51), with the
operands R52 to R55 give them. -/

namespace Sys2Proof

/-- The eight byte lanes of a command word, `lane[0]` first in stream order (R37, R47). -/
structure Lanes where
  lane0 : Byte
  lane1 : Byte
  lane2 : Byte
  lane3 : Byte
  lane4 : Byte
  lane5 : Byte
  lane6 : Byte
  lane7 : Byte
  deriving DecidableEq, Repr, Inhabited

/-- A command with an assigned opcode (R51). -/
inductive Instr where
  /-- NOP: no operands (R55, R99) -/
  | nop
  /-- INIT: the key length, saturated at 255, and the first eight key bytes (R52, R71) -/
  | init (len : Byte) (lanes : Lanes)
  /-- UPDATE: the number of message bytes and the lanes that carry them (R53, R80) -/
  | update (len : Byte) (lanes : Lanes)
  /-- FINALIZE: no operands (R54, R89) -/
  | finalize
  deriving DecidableEq, Repr, Inhabited

end Sys2Proof
end

