-- ==== Sys2Proof/Decode.lean ====
section
/-! DEFINITION. Decoding a command word (R47, R49, R51, R56, R60), total on all 80-bit words, and encoding a command
(R47, R51); the ten-byte form of a command word (R50). -/

namespace Sys2Proof

/-- What the decoder reads from a command word. -/
inductive Decoded where
  /-- a command with an assigned opcode -/
  | instr (i : Instr)
  /-- a reserved opcode, 0x04 to 0xFF (R56); the core rejects it with IllegalCommand -/
  | reserved (op : Byte)
  deriving DecidableEq, Repr

/-- `op` = `cw[7:0]` (R47). -/
def opField (cw : CmdWord) : Byte := cw.extractLsb' 0 8

/-- `len` = `cw[15:8]` (R47). -/
def lenField (cw : CmdWord) : Byte := cw.extractLsb' 8 8

/-- `lane[i]` = `cw[16+8i+7 : 16+8i]` (R49). -/
def laneField (cw : CmdWord) (i : Nat) : Byte := cw.extractLsb' (16 + 8 * i) 8

/-- The eight lanes of a command word (R47, R49). -/
def lanesField (cw : CmdWord) : Lanes where
  lane0 := laneField cw 0
  lane1 := laneField cw 1
  lane2 := laneField cw 2
  lane3 := laneField cw 3
  lane4 := laneField cw 4
  lane5 := laneField cw 5
  lane6 := laneField cw 6
  lane7 := laneField cw 7

/-- The decoder, its tests in the order of R60. The fields a command does not use are dropped (R57). -/
def decode (cw : CmdWord) : Decoded :=
  if opField cw = 0x00#8 then .instr .nop
  else if 0x04#8 ≤ opField cw then .reserved (opField cw)
  else if opField cw = 0x01#8 then .instr (.init (lenField cw) (lanesField cw))
  else if opField cw = 0x02#8 then .instr (.update (lenField cw) (lanesField cw))
  else .instr .finalize

/-- A command word from its fields, `op` lowest and `lane[7]` highest (R47). -/
def cmdWord (op len : Byte) (l : Lanes) : CmdWord :=
  l.lane7 ++ l.lane6 ++ l.lane5 ++ l.lane4 ++ l.lane3 ++ l.lane2 ++ l.lane1 ++ l.lane0 ++ len ++ op

/-- The opcode of a command (R51). -/
def opcode : Instr → Byte
  | .nop => 0x00#8
  | .init _ _ => 0x01#8
  | .update _ _ => 0x02#8
  | .finalize => 0x03#8

/-- The word of a command. DESIGN CHOICE (log 12), safe: the fields that NOP and FINALIZE ignore (R54, R55) are
encoded as zero, as R55 does for the all-zero NOP. -/
def encode : Instr → CmdWord
  | .nop => cmdWord 0x00#8 0 ⟨0, 0, 0, 0, 0, 0, 0, 0⟩
  | .init len lanes => cmdWord 0x01#8 len lanes
  | .update len lanes => cmdWord 0x02#8 len lanes
  | .finalize => cmdWord 0x03#8 0 ⟨0, 0, 0, 0, 0, 0, 0, 0⟩

/-- A command word as ten bytes, little-endian: `op`, `len`, `lane[0]` to `lane[7]` (R50). -/
def cmdBytes (cw : CmdWord) : List Byte :=
  [opField cw, lenField cw, laneField cw 0, laneField cw 1, laneField cw 2, laneField cw 3,
   laneField cw 4, laneField cw 5, laneField cw 6, laneField cw 7]

/-- The command word written as ten bytes, and the bytes after it; `none` for fewer than ten (R47: there is no
shorter form). -/
def cmdOfBytes : List Byte → Option (CmdWord × List Byte)
  | op :: len :: b0 :: b1 :: b2 :: b3 :: b4 :: b5 :: b6 :: b7 :: rest =>
    some (cmdWord op len ⟨b0, b1, b2, b3, b4, b5, b6, b7⟩, rest)
  | _ => none

/-- The command that the decoder reads from the word whose low `nbits` bits are `w` and whose other bits are 0, the
bits numbered as spec/opcode_table.json numbers them (R47, R50); `none` for a reserved opcode. -/
def decodeTableWord (nbits w : Nat) : Option Instr :=
  match decode (BitVec.ofNat 80 (w % 2 ^ nbits)) with
  | .instr i => some i
  | .reserved _ => none

end Sys2Proof
end

