-- ==== Sys2Proof/Machine/HashState.lean ====
section
/-! DEFINITION. The hashing state of spec/10_state.md as plain data: the four registers, the pending buffer with its
fill count, and the running total (R15, R16, R19, R20, R21). -/

namespace Sys2Proof.Machine

/-- The four hash registers `v[0]` to `v[3]`, 32 bits each (R16). -/
structure Regs where
  v0 : Word
  v1 : Word
  v2 : Word
  v3 : Word
  deriving DecidableEq, Repr, Inhabited

/-- The three slots of the pending buffer, the oldest byte in `slot0` (R19). -/
structure Buf where
  slot0 : Byte
  slot1 : Byte
  slot2 : Byte
  deriving DecidableEq, Repr, Inhabited

/-- The hashing state: everything of R15 but `phase` and `err`. -/
structure HashState where
  /-- the hash registers (R16) -/
  v : Regs
  /-- pending message bytes (R19) -/
  buf : Buf
  /-- the number of pending bytes, 0 to 3 (R20) -/
  fill : BitVec 2
  /-- bytes compressed since INIT, modulo 256 (R21) -/
  total : Byte
  deriving DecidableEq, Repr, Inhabited

end Sys2Proof.Machine
end

