-- ==== Sys2Proof/Config.lean ====
section
/-! DEFINITION. What an implementation fixes and the spec leaves open: the identity string (R1), the open latency
parameter (R6, R132) and the free value that the hashing state takes at a reset (R120). The constants that the spec
fixes (R5) are no configuration (R31, R69); they stand in Machine/Params.lean. -/

namespace Sys2Proof.Config

/-- The identity string of the core (R1, decision D1). -/
def identity : String := "HSH32-2-4"

/-- `LATENCY(cmd)`: the cycles a command takes, an open parameter that no rule uses (R6, R132; log 9). Nothing in
the model reads it. -/
opaque latency (cw : CmdWord) : Nat

/-- DESIGN CHOICE (log 6), safe: the contents of `v0..v3`, `buf`, `fill` and `total` after the `n`-th reset pulse of
a run, a free value. R120 leaves them unspecified, and R123 does not fix whether key-derived values remain, so the
value may depend on the contents before. No body: no statement can rest on it. -/
opaque resetResidue (n : Nat) (before : Machine.HashState) : Machine.HashState

end Sys2Proof.Config
end

