-- ==== Sys2Proof/Machine/State.lean ====
section
/-! DEFINITION. The state of the core (R15), with the command port and the response port as plain data; the causes of
a rejection (R107); the reset state (R120, R122). -/

namespace Sys2Proof.Machine

/-- The lifecycle register `phase`: 0 IDLE, 1 ACTIVE, 2 DONE. DESIGN CHOICE (log 8), safe: R23 says that the
value 3 never occurs, and 93 U12 lets a model's type leave it out. -/
inductive Phase where
  | idle
  | active
  | done
  deriving DecidableEq, Repr, Inhabited

/-- The causes of a rejection (R107). -/
inductive Cause where
  /-- INIT with `len < 8` (R105) -/
  | invalidKeyLength
  /-- UPDATE or FINALIZE in DONE (R106) -/
  | illegalReuse
  /-- UPDATE or FINALIZE in IDLE (R108) -/
  | notInitialized
  /-- UPDATE in ACTIVE with `len > 8` (R109) -/
  | badLength
  /-- a reserved opcode (R111) -/
  | illegalCommand
  deriving DecidableEq, Repr

/-- What the host may do to the core in one step (R127, R131): present a command word, or apply reset (R123). -/
inductive HostInput where
  | command (cw : CmdWord)
  | reset
  deriving DecidableEq, Repr

/-- The state. `hash`, `phase` and `err` are the architectural state of R15; `port`, `rsp` and `resets` are the
model's own (log 1, 2, 6). -/
structure State where
  /-- `v0..v3`, `buf`, `fill`, `total` (R15) -/
  hash : HashState
  /-- the lifecycle register (R23) -/
  phase : Phase
  /-- the sticky error register: the code of the first rejection, 0 if none (R24) -/
  err : BitVec 3
  /-- what the host will present on the port, oldest first (R127, R131; log 1) -/
  port : List HostInput
  /-- the response word of the latest step (R59, R131); `none` after reset, which returns no response word (log 2) -/
  rsp : Option RspWord
  /-- resets taken so far; it feeds the free value of a reset and nothing else (log 6) -/
  resets : Nat
  deriving DecidableEq, Repr

/-- The core never stops: a rejected command is a next state (R104, R110), nothing else fails (R115), and the core
never halts (R128, R129). So there is no fault; nothing raises one (log 7, safe). -/
inductive Fault where
  deriving DecidableEq, Repr

/-- The refusals of the model. -/
inductive Refusal where
  /-- Raised by an arm of `exec` whose instruction has no meaning yet; no arm is left that raises it. Safe. -/
  | notModelled (mnemonic : String)
  deriving DecidableEq, Repr

/-- The state after reset, with nothing presented on the port: `phase` is IDLE and `err` is 0 (R120). The hashing
state is unspecified (R15, R120); DESIGN CHOICE (log 5), unsafe: it is named zero here. -/
def State.reset : State where
  hash := ⟨⟨0, 0, 0, 0⟩, ⟨0, 0, 0⟩, 0, 0⟩
  phase := .idle
  err := 0
  port := []
  rsp := none
  resets := 0

end Sys2Proof.Machine
end

