-- ==== Sys2Proof/Machine/Ops.lean ====
section
/-! DEFINITION. The shared operations: the primitives of 32-bit arithmetic and byte order (R8 to R11), the response
word (R59), ending a command by OK or by a rejection (R12, R110), taking a reset (R120) and what the port presents
next (R127). -/

namespace Sys2Proof.Machine

/-- `add32`: addition modulo 2^32, no flag (R8). -/
def add32 (a b : Word) : Word := a + b

/-- `rotl32(x, n)` for `n` in 1 to 31: `(x << n) | (x >> (32-n))` (R9). -/
def rotl32 (x : Word) (n : Nat) : Word := (x <<< n) ||| (x >>> (32 - n))

/-- `le32`: four bytes to a word, the first byte lowest (R10). -/
def le32 (b0 b1 b2 b3 : Byte) : Word :=
  b0.setWidth 32 ||| (b1.setWidth 32 <<< 8) ||| (b2.setWidth 32 <<< 16) ||| (b3.setWidth 32 <<< 24)

/-- `bytes_le`: a word to four bytes, least-significant byte first (R11). -/
def bytesLe (w : Word) : List Byte :=
  [w.extractLsb' 0 8, w.extractLsb' 8 8, w.extractLsb' 16 8, w.extractLsb' 24 8]

/-- The code of a cause (R107). -/
def Cause.code : Cause → BitVec 3
  | .invalidKeyLength => 1
  | .illegalReuse => 2
  | .notInitialized => 3
  | .badLength => 4
  | .illegalCommand => 5

/-- The response word `RSP40`: `code` in bits 7:0, `digest` in bits 39:8 (R59). -/
def rspWord (code : Byte) (digest : Word) : RspWord := digest ++ code

/-- The field `code` of a response word (R59). -/
def rspCode (r : RspWord) : Byte := r.extractLsb' 0 8

/-- The field `digest` of a response word (R59). -/
def rspDigest (r : RspWord) : Word := r.extractLsb' 8 32

/-- A response word as five bytes, little-endian: `code`, then `bytes_le(digest)` (R59). -/
def rspBytes (r : RspWord) : List Byte := rspCode r :: bytesLe (rspDigest r)

/-- `respond OK(d)`: the command ends with code 0 and digest field `d` (R12). -/
def respondOk (d : Word) (s : State) : State := { s with rsp := some (rspWord 0 d) }

/-- `reject <Cause>`, the core's one exceptional outcome (R104, R110): `err` keeps the first code, the response
carries this one with a zero digest, and nothing else changes. -/
def reject (c : Cause) (s : State) : State :=
  { s with
    err := if s.err = 0 then c.code else s.err
    rsp := some (rspWord (c.code.setWidth 8) 0) }

/-- A command word with a reserved opcode is rejected with IllegalCommand in every phase (R56, R111). -/
def illegalCommand (s : State) : State := reject .illegalCommand s

/-- The reset input is applied, a step of its own (R120, R123): `phase` becomes IDLE and `err` 0; the hashing state
is unspecified, so it takes a free value (log 6). What the host gets back is the state (R131), no response word (log 2). -/
def applyReset (s : State) : State :=
  { s with
    hash := Config.resetResidue s.resets s.hash
    phase := .idle
    err := 0
    rsp := none
    resets := s.resets + 1 }

/-- The host presents nothing: the state is held (R116, R118), and the host gets back code 0, as for a NOP (R99,
R131); the digest field is zero, as in every response but that of an accepted FINALIZE (R59). -/
def holdState (s : State) : State := respondOk 0 s

/-- What the host presents in this step, and the state with it taken off the port; `none` if nothing. -/
def fetch (s : State) : Option (HostInput × State) :=
  match s.port with
  | [] => none
  | input :: rest => some (input, { s with port := rest })

/-- `s` with the command word `cw` presented next, before what the port already holds (log 3). -/
def present (cw : CmdWord) (s : State) : State := { s with port := .command cw :: s.port }

end Sys2Proof.Machine
end

