-- ==== Sys2Proof/Machine/Flags.lean ====
section
/-! DEFINITION. The core has no condition flag (R29). Its status bits are `phase` and `err`, and its two outputs are
functions of the state (R25): STATUS and DIGEST. -/

namespace Sys2Proof.Machine

/-- The two-bit encoding of `phase` (R23). -/
def Phase.code : Phase → BitVec 2
  | .idle => 0
  | .active => 1
  | .done => 2

/-- The output STATUS: `phase` in bits 1:0, `err` in bits 4:2, bits 7:5 zero (R25). -/
def status (s : State) : Byte := 0#3 ++ s.err ++ s.phase.code

/-- The digest word of the registers: `v1 ^ v3` (R94). -/
def digestWord (v : Regs) : Word := v.v1 ^^^ v.v3

/-- The output DIGEST: `v1 ^ v3` in DONE, zero otherwise (R25). -/
def digestOut (s : State) : Word :=
  match s.phase with
  | .done => digestWord s.hash.v
  | .idle => 0
  | .active => 0

end Sys2Proof.Machine
end

