-- ==== Sys2Proof/Machine/Params.lean ====
section
/-! DEFINITION. The constants of the hardware (R5): fixed, no operands and no configuration (R31, R69). -/

namespace Sys2Proof.Machine

/-- `cROUNDS`: rounds per compressed word (R5, R68). -/
def cRounds : Nat := 2

/-- `fROUNDS`: rounds at the end of FINALIZE (R5, R68). -/
def fRounds : Nat := 4

/-- `C0`: initial constant of `v0` (R5, R74). -/
def c0 : Word := 0x00000000#32

/-- `C1`: initial constant of `v1` (R5, R74). -/
def c1 : Word := 0x00000000#32

/-- `C2`: initial constant of `v2` (R5, R74). -/
def c2 : Word := 0x6C796765#32

/-- `C3`: initial constant of `v3` (R5, R74). -/
def c3 : Word := 0x74656462#32

/-- `CFIN`: the constant FINALIZE xors into `v2` (R5, R93). -/
def cFin : Word := 0x000000FF#32

/-- `KEYBYTES`: the key bytes that are used, and the least key length (R5, R72). -/
def keyBytes : Nat := 8

/-- `MAXB`: the most message bytes one UPDATE carries (R6, R53). -/
def maxBytes : Nat := 8

end Sys2Proof.Machine
end

