-- ==== Sys2Proof/Machine/Round.lean ====
section
/-! DEFINITION. The round function SIPROUND (R64, R65), its repetition (R68), its inverse (R67) and COMPRESS (R78),
over the four registers alone. -/

namespace Sys2Proof.Machine

/-- SIPROUND: the fourteen assignments s1 to s14 of R65, one after another, each seeing those before it. -/
def sipRound (v : Regs) : Regs :=
  let v := { v with v0 := add32 v.v0 v.v1 }
  let v := { v with v1 := rotl32 v.v1 5 }
  let v := { v with v1 := v.v1 ^^^ v.v0 }
  let v := { v with v0 := rotl32 v.v0 16 }
  let v := { v with v2 := add32 v.v2 v.v3 }
  let v := { v with v3 := rotl32 v.v3 8 }
  let v := { v with v3 := v.v3 ^^^ v.v2 }
  let v := { v with v0 := add32 v.v0 v.v3 }
  let v := { v with v3 := rotl32 v.v3 7 }
  let v := { v with v3 := v.v3 ^^^ v.v0 }
  let v := { v with v2 := add32 v.v2 v.v1 }
  let v := { v with v1 := rotl32 v.v1 13 }
  let v := { v with v1 := v.v1 ^^^ v.v2 }
  { v with v2 := rotl32 v.v2 16 }

/-- `SIPROUNDS(n)`: SIPROUND applied `n` times (R68). -/
def sipRounds : Nat → Regs → Regs
  | 0, v => v
  | n + 1, v => sipRounds n (sipRound v)

/-- `rotr(x, n) = rotl32(x, 32-n)` (R67). -/
def rotr32 (x : Word) (n : Nat) : Word := rotl32 x (32 - n)

/-- The inverse of SIPROUND (R67): for proofs, the hardware never computes it. -/
def sipRoundInverse (v : Regs) : Regs :=
  let w2 := rotr32 v.v2 16
  let x1 := v.v1 ^^^ w2
  let y1 := rotr32 x1 13
  let y2 := w2 - y1
  let x3 := v.v3 ^^^ v.v0
  let y3 := rotr32 x3 7
  let y0 := v.v0 - y3
  let z3 := y3 ^^^ y2
  let d := rotr32 z3 8
  let z0 := rotr32 y0 16
  let z1 := y1 ^^^ z0
  let b := rotr32 z1 5
  ⟨z0 - b, b, y2 - d, d⟩

/-- `COMPRESS(m)`: `m` xored into `v3`, two rounds, `m` xored into `v0` (R78). -/
def compress (m : Word) (v : Regs) : Regs :=
  let w := sipRounds cRounds { v with v3 := v.v3 ^^^ m }
  { w with v0 := w.v0 ^^^ m }

end Sys2Proof.Machine
end

