-- ==== Sys2Proof/Machine/Finalize.lean ====
section
/-! DEFINITION. The command FINALIZE (spec/43_finalize.md): length byte, final word, extra rounds, digest. -/

namespace Sys2Proof.Machine

/-- `lenbyte = (total + fill) mod 256` (R91). -/
def lengthByte (h : HashState) : Byte := h.total + h.fill.setWidth 8

/-- The final word `b`: the length byte in byte 3, the pending bytes below it (R92). -/
def finalWord (h : HashState) : Word :=
  let b := (lengthByte h).setWidth 32 <<< 24
  let b := if 1#2 ≤ h.fill then b ||| h.buf.slot0.setWidth 32 else b
  let b := if 2#2 ≤ h.fill then b ||| (h.buf.slot1.setWidth 32 <<< 8) else b
  if 3#2 ≤ h.fill then b ||| (h.buf.slot2.setWidth 32 <<< 16) else b

/-- Steps 3 to 5: COMPRESS of the final word, `0xFF` into `v2`, four rounds (R93). -/
def finalRegs (b : Word) (v : Regs) : Regs :=
  let w := compress b v
  sipRounds fRounds { w with v2 := w.v2 ^^^ cFin }

/-- The hashing state after an accepted FINALIZE: the buffer cleared, `total` kept (R95). -/
def finalizeHash (h : HashState) : HashState :=
  { h with v := finalRegs (finalWord h) h.v, buf := ⟨0, 0, 0⟩, fill := 0 }

/-- FINALIZE, the whole command, its tests in the order of R90 (R96). -/
def execFinalize (s : State) : Host.Outcome State Fault Refusal :=
  match s.phase with
  | .idle => .next (reject .notInitialized s)
  | .done => .next (reject .illegalReuse s)
  | .active =>
    .next (respondOk (digestWord (finalizeHash s.hash).v)
      { s with hash := finalizeHash s.hash, phase := .done })

end Sys2Proof.Machine
end

