-- ==== Sys2Proof/Machine/Operands.lean ====
section
/-! DEFINITION. The operand forms: the lanes in stream order (R37), the two key words of an INIT (R73), the message
bytes of an UPDATE (R53), and the two tests on `len` (R72, R81). -/

namespace Sys2Proof.Machine

/-- The lanes in stream order (R37). -/
def laneList (l : Lanes) : List Byte :=
  [l.lane0, l.lane1, l.lane2, l.lane3, l.lane4, l.lane5, l.lane6, l.lane7]

/-- `k0`: key bytes 0 to 3, little-endian (R73). -/
def keyWord0 (l : Lanes) : Word := le32 l.lane0 l.lane1 l.lane2 l.lane3

/-- `k1`: key bytes 4 to 7, little-endian (R73). -/
def keyWord1 (l : Lanes) : Word := le32 l.lane4 l.lane5 l.lane6 l.lane7

/-- The message bytes of an UPDATE: `lane[0..len-1]` (R53). -/
def payload (len : Byte) (l : Lanes) : List Byte := (laneList l).take len.toNat

/-- The rejection test of INIT: `len < 8` (R72). -/
def keyTooShort (len : Byte) : Bool := len.toNat < keyBytes

/-- The length test of UPDATE: `len > 8` (R81). -/
def tooManyBytes (len : Byte) : Bool := maxBytes < len.toNat

end Sys2Proof.Machine
end

