-- ==== Sys2Proof/Machine/Init.lean ====
section
/-! DEFINITION. The command INIT (spec/41_init.md): key expansion, register initialisation, and the acceptance test. -/

namespace Sys2Proof.Machine

/-- The initial registers under the key words `k0`, `k1` (R74). -/
def initRegs (k0 k1 : Word) : Regs where
  v0 := c0 ^^^ k0
  v1 := c1 ^^^ k1
  v2 := c2 ^^^ k0
  v3 := c3 ^^^ k1

/-- The hashing state that an accepted INIT leaves: keyed registers, empty buffer, zero total (R74, R75). -/
def keyedHash (l : Lanes) : HashState where
  v := initRegs (keyWord0 l) (keyWord1 l)
  buf := ⟨0, 0, 0⟩
  fill := 0
  total := 0

/-- INIT, the whole command (R76). -/
def execInit (len : Byte) (lanes : Lanes) (s : State) : Host.Outcome State Fault Refusal :=
  if keyTooShort len then .next (reject .invalidKeyLength s)
  else .next (respondOk 0 { s with hash := keyedHash lanes, phase := .active, err := 0 })

end Sys2Proof.Machine
end

