-- ==== Sys2Proof/Machine/Nop.lean ====
section
/-! DEFINITION. The command NOP (spec/44_nop_and_oneshot.md R99). -/

namespace Sys2Proof.Machine

/-- NOP: accepted in every phase, writes no state, responds `OK(0)` (R99). -/
def execNop (s : State) : Host.Outcome State Fault Refusal := .next (respondOk 0 s)

end Sys2Proof.Machine
end

