-- ==== Sys2Proof/Machine/Update.lean ====
section
/-! DEFINITION. The command UPDATE and the accumulator ABSORB (spec/42_update.md). -/

namespace Sys2Proof.Machine

/-- `buf[i] <- x` for `i < 3` (R12, R79). ABSORB never writes at index 3, and there is no such slot (R19). -/
def setSlot (b : Buf) (i : BitVec 2) (x : Byte) : Buf :=
  if i = 0 then { b with slot0 := x }
  else if i = 1 then { b with slot1 := x }
  else if i = 2 then { b with slot2 := x }
  else b

/-- `ABSORB(x)`: the byte is buffered, or completes a word that is compressed at once (R79). -/
def absorb (h : HashState) (x : Byte) : HashState :=
  if h.fill < 3#2 then { h with buf := setSlot h.buf h.fill x, fill := h.fill + 1 }
  else
    { v := compress (le32 h.buf.slot0 h.buf.slot1 h.buf.slot2 x) h.v
      buf := ⟨0, 0, 0⟩
      fill := 0
      total := h.total + 4 }

/-- ABSORB over bytes in stream order (R82). -/
def absorbAll (h : HashState) (bytes : List Byte) : HashState := bytes.foldl absorb h

/-- UPDATE, the whole command, its tests in the order of R81 (R82). -/
def execUpdate (len : Byte) (lanes : Lanes) (s : State) : Host.Outcome State Fault Refusal :=
  match s.phase with
  | .idle => .next (reject .notInitialized s)
  | .done => .next (reject .illegalReuse s)
  | .active =>
    if tooManyBytes len then .next (reject .badLength s)
    else .next (respondOk 0 { s with hash := absorbAll s.hash (payload len lanes) })

end Sys2Proof.Machine
end

