-- ==== Sys2Proof/Machine/Dispatch.lean ====
section
/-! DEFINITION. One arm per command: each calls the command's meaning (R51, R60). -/

namespace Sys2Proof.Machine

def exec (i : Instr) (s : State) : Host.Outcome State Fault Refusal :=
  match i with
  | .nop => Sys2Proof.Machine.execNop s
  | .init len lanes => Sys2Proof.Machine.execInit len lanes s
  | .update len lanes => Sys2Proof.Machine.execUpdate len lanes s
  | .finalize => Sys2Proof.Machine.execFinalize s

end Sys2Proof.Machine
end

