-- ==== Sys2Proof/Machine/Step.lean ====
section
/-! DEFINITION. The step (R60, R127): take what the host presents; execute a command, or take a reset, or hold the
state. -/

namespace Sys2Proof.Machine

/-- `decode_and_execute` (R60): an assigned opcode runs its command, a reserved one is rejected. -/
def execDecoded (d : Decoded) (s : State) : Host.Outcome State Fault Refusal :=
  match d with
  | .instr i => exec i s
  | .reserved _ => .next (illegalCommand s)

/-- One step (R127). -/
def step (s : State) : Host.Outcome State Fault Refusal :=
  match fetch s with
  | none => .next (holdState s)
  | some (.reset, t) => .next (applyReset t)
  | some (.command cw, t) => execDecoded (decode cw) t

/-- `s` with the table word of `nbits` bits (the bits above them zero) presented as the next command word (log 3). -/
def State.withFetchWord (s : State) (nbits w : Nat) : State :=
  present (BitVec.ofNat 80 (w % 2 ^ nbits)) s

end Sys2Proof.Machine
end

