-- ==== Sys2Proof/Machine/Pseudo.lean ====
section
/-! DEFINITION. The pseudo-commands as the command sequences they expand to: UPDATE* (R101) and HASH (R100); the
textual form of a command word (R62). None of them is a command of the core (R63). -/

namespace Sys2Proof.Machine

/-- Up to eight bytes in lanes 0 and up, unused lanes zero (R62). -/
def padLanes (bs : List Byte) : Lanes :=
  ⟨bs.getD 0 0, bs.getD 1 0, bs.getD 2 0, bs.getD 3 0, bs.getD 4 0, bs.getD 5 0, bs.getD 6 0, bs.getD 7 0⟩

/-- The short form `UPDATE b0 ...` of at most eight bytes: `len` is their count (R62). -/
def shortUpdate (bs : List Byte) : Instr := .update (BitVec.ofNat 8 bs.length) (padLanes bs)

/-- `UPDATE*`: `ceil(n / 8)` UPDATE commands, the `i`-th carrying bytes `8i` and up, at most eight (R101). -/
def updateStar (bs : List Byte) : List Instr :=
  (List.range ((bs.length + 7) / 8)).map fun i => shortUpdate ((bs.drop (8 * i)).take 8)

/-- The INIT of HASH: `len = min(L, 255)` and the first eight key bytes (R100). -/
def keyInit (key : List Byte) : Instr := .init (BitVec.ofNat 8 (min key.length 255)) (padLanes key)

/-- `HASH key, msg`: INIT, UPDATE*, FINALIZE; only the INIT, which is rejected, for a key under eight bytes (R100). -/
def hashCommands (key msg : List Byte) : List Instr :=
  if key.length < keyBytes then [keyInit key] else keyInit key :: (updateStar msg ++ [.finalize])

/-- One hexadecimal digit. -/
def hexDigit (n : Nat) : String :=
  String.singleton (['0', '1', '2', '3', '4', '5', '6', '7', '8', '9', 'A', 'B', 'C', 'D', 'E', 'F'].getD n '?')

/-- Two hexadecimal digits (R62). -/
def hexByte (b : Byte) : String := hexDigit (b.toNat / 16) ++ hexDigit (b.toNat % 16)

/-- Bytes, each after a space (R62). -/
def hexBytes (bs : List Byte) : String := bs.foldl (fun t b => t ++ " " ++ hexByte b) ""

/-- One line of a command listing (R62); an illegal UPDATE `len` takes the explicit form. -/
def listing : Instr → String
  | .nop => "NOP"
  | .init len l => "INIT len=" ++ toString len.toNat ++ hexBytes (laneList l)
  | .update len l =>
    if tooManyBytes len then "UPDATE len=" ++ toString len.toNat ++ hexBytes (laneList l)
    else "UPDATE" ++ hexBytes (payload len l)
  | .finalize => "FINALIZE"

/-- The listing line of any command word: a reserved opcode is written `.cw` with 20 hexadecimal digits (R62). -/
def listingWord (cw : CmdWord) : String :=
  match decode cw with
  | .instr i => listing i
  | .reserved _ => ".cw " ++ (cmdBytes cw).reverse.foldl (fun t b => t ++ hexByte b) ""

end Sys2Proof.Machine
end

