-- ==== Sys2Proof/WellFormed.lean ====
section
/-! DEFINITION. When the operands of a command are legal: the two operand checks of the spec, R72 (a key of at least
eight bytes) and R53 (at most eight message bytes). Every `Instr` has an encoding, also one with an illegal operand
(R62 gives a form for it); the core rejects such a command and the model runs that rejection (log 13). -/

namespace Sys2Proof

/-- R72, R125: the key length of an INIT is legal when it is at least 8. -/
abbrev keyLengthLegal (len : Byte) : Bool := 8 ≤ len.toNat

/-- R53: the byte count of an UPDATE is legal when it is at most 8. -/
abbrev byteCountLegal (len : Byte) : Bool := len.toNat ≤ 8

/-- The operands of the command are legal. DESIGN CHOICE (log 13), safe: no operation of the model reads it. -/
def Instr.wellFormed : Instr → Bool
  | .nop => true
  | .init len _ => keyLengthLegal len
  | .update len _ => byteCountLegal len
  | .finalize => true

end Sys2Proof
end

