-- ==== Sys2Proof/Safety.lean ====
section
/-! DEFINITION. The terms claims use: the invariants of R27, what the host can observe, accepted and rejected
commands, sequences of commands, the table of responses (R112), and the digest of a whole message computed in one
piece, without buffer or stream (R100). The machine reads none of this. -/

namespace Sys2Proof.Machine

/-- V2: slots at `fill` and above hold zero (R20, R27). -/
abbrev BufClean (h : HashState) : Prop :=
  (h.fill = 0 → h.buf.slot0 = 0) ∧ (h.fill ≤ 1#2 → h.buf.slot1 = 0) ∧ (h.fill ≤ 2#2 → h.buf.slot2 = 0)

/-- V3: `total[1:0] = 0` (R21, R27). -/
abbrev TotalAligned (h : HashState) : Prop := h.total.extractLsb' 0 2 = 0#2

/-- The invariants V2, V3, V5 and V7 of R27; V1 holds by the type of `phase`, V6 is a statement of its own. -/
abbrev Inv (s : State) : Prop :=
  (s.phase ≠ .idle → BufClean s.hash ∧ TotalAligned s.hash) ∧
  (s.phase = .done → s.hash.fill = 0 ∧ s.hash.buf = ⟨0, 0, 0⟩) ∧
  s.err.toNat ≤ 5

/-- The pending bytes `buf[0..fill-1]`, the oldest first (R19). -/
def pending (h : HashState) : List Byte := [h.buf.slot0, h.buf.slot1, h.buf.slot2].take h.fill.toNat

/-- The latest step answered with code 0 (R59): it executed an accepted command, or nothing was presented (R131). -/
abbrev Accepted (s : State) : Prop := s.rsp.map rspCode = some 0#8

/-- The latest step answered with a code other than 0 (R59): it rejected a command. -/
abbrev Rejected (s : State) : Prop := s.rsp.isSome = true ∧ s.rsp.map rspCode ≠ some 0#8

/-- Two states that agree on everything but the hashing state, and on that too unless both are in IDLE: the freedom
that reset leaves (R120, R133). The counter behind the free value is not compared. -/
abbrev SameButUnspecified (s t : State) : Prop :=
  s.phase = t.phase ∧ s.err = t.err ∧ s.port = t.port ∧ s.rsp = t.rsp ∧ (s.phase ≠ .idle → s.hash = t.hash)

/-- The code that R112's table gives a command in a phase. -/
def tableCode : Instr → Phase → Byte
  | .nop, _ => 0
  | .init len _, _ => if 8 ≤ len.toNat then 0 else 1
  | .update _ _, .idle => 3
  | .update len _, .active => if len.toNat ≤ 8 then 0 else 4
  | .update _ _, .done => 2
  | .finalize, .idle => 3
  | .finalize, .active => 0
  | .finalize, .done => 2

/-- The phase that R126's table gives after a command. -/
def tablePhase : Instr → Phase → Phase
  | .nop, p => p
  | .init len _, p => if 8 ≤ len.toNat then .active else p
  | .update _ _, p => p
  | .finalize, .idle => .idle
  | .finalize, .active => .done
  | .finalize, .done => .done

/-- Commands executed one after another (R43). -/
def execAll : List Instr → State → Host.Outcome State Fault Refusal
  | [], s => .next s
  | i :: rest, s =>
    match exec i s with
    | .next t => execAll rest t
    | .fault f => .fault f
    | .refused r => .refused r

/-- Every command of the list is accepted when they are executed one after another from the state. -/
def AllAccepted : List Instr → State → Prop
  | [], _ => True
  | i :: rest, s => ∃ t, exec i s = .next t ∧ Accepted t ∧ AllAccepted rest t

/-- The command is an UPDATE with a legal byte count (R53). -/
def isLegalUpdate : Instr → Bool
  | .nop => false
  | .init _ _ => false
  | .update len _ => byteCountLegal len
  | .finalize => false

/-- The command is an INIT. -/
def isInit : Instr → Bool
  | .nop => false
  | .init _ _ => true
  | .update _ _ => false
  | .finalize => false

/-- The bytes that a command brings to the stream (R35): those of an UPDATE. -/
def streamBytes : Instr → List Byte
  | .nop => []
  | .init _ _ => []
  | .update len lanes => payload len lanes
  | .finalize => []

/-- The stream that a sequence of commands carries: the UPDATE bytes, concatenated in order (R35). -/
def streamOf (cmds : List Instr) : List Byte := cmds.flatMap streamBytes

/-- A command sequence as the host presents it on the port. -/
def asInputs (cmds : List Instr) : List HostInput := cmds.map fun i => .command (encode i)

/-- A message cut at the word boundaries (R38): its complete words, little-endian, and the bytes left over. -/
def splitWords : List Byte → List Word × List Byte
  | b0 :: b1 :: b2 :: b3 :: rest => (le32 b0 b1 b2 b3 :: (splitWords rest).1, (splitWords rest).2)
  | tail => ([], tail)

/-- The registers after the words are compressed in order. -/
def compressAll (v : Regs) (words : List Word) : Regs := words.foldl (fun w m => compress m w) v

/-- `HSH32(key8, msg)` (R100): the digest word of the whole message, from the message as one piece: its complete
words, then the word of its left-over bytes with the length modulo 256 on top (R91, R92), then the finalization
(R93, R94). -/
def hsh32 (key : Lanes) (msg : List Byte) : Word :=
  let v := compressAll (initRegs (keyWord0 key) (keyWord1 key)) (splitWords msg).1
  let tail := (splitWords msg).2
  digestWord (finalRegs
    (le32 (tail.getD 0 0) (tail.getD 1 0) (tail.getD 2 0) (BitVec.ofNat 8 msg.length)) v)

end Sys2Proof.Machine
end

