-- ==== Sys2Proof/Certificates/Slice0/Obligations.lean ====
section
/-! DEFINITION. The statements for the provers, each from the rules it names. The core has no memory (R34), so no
frame speaks of bytes of memory. -/

open Sys2Proof Sys2Proof.Machine

/-! ## Primitives and byte order -/

/-- R9: left rotation moves bit `i` to bit `(i+n) mod 32`, for `n` in 1 to 31; with the rule's examples. -/
def Obligations.RotateLeftMovesBits : Prop :=
  (∀ (x : Word) (n : Nat), 1 ≤ n → n ≤ 31 →
    rotl32 x n = ((x <<< n) ||| (x >>> (32 - n))) ∧
    ∀ i, i < 32 → (rotl32 x n).getLsbD ((i + n) % 32) = x.getLsbD i) ∧
  rotl32 0x00000001 5 = 0x00000020 ∧ rotl32 0x80000000 1 = 0x00000001 ∧
  rotl32 0x12345678 16 = 0x56781234 ∧ rotl32 0x12345678 8 = 0x34567812 ∧
  rotl32 0x12345678 7 = 0x1A2B3C09 ∧ rotl32 0x12345678 13 = 0x8ACF0246 ∧ rotl32 0x12345678 5 = 0x468ACF02

/-- R10, R11: `bytes_le` gives byte `i` at place `i` and is the inverse of `le32`, in both directions; with the rules'
examples. -/
def Obligations.LittleEndianPackAndUnpack : Prop :=
  (∀ b0 b1 b2 b3 : Byte,
    le32 b0 b1 b2 b3 = (b0.setWidth 32 ||| (b1.setWidth 32 <<< 8) ||| (b2.setWidth 32 <<< 16) |||
      (b3.setWidth 32 <<< 24)) ∧
    bytesLe (le32 b0 b1 b2 b3) = [b0, b1, b2, b3]) ∧
  (∀ w : Word,
    bytesLe w = [w.extractLsb' 0 8, w.extractLsb' 8 8, w.extractLsb' 16 8, w.extractLsb' 24 8] ∧
    le32 (w.extractLsb' 0 8) (w.extractLsb' 8 8) (w.extractLsb' 16 8) (w.extractLsb' 24 8) = w) ∧
  le32 0x00 0x01 0x02 0x03 = 0x03020100 ∧ bytesLe 0x5B9F35A9 = [0xA9, 0x35, 0x9F, 0x5B]

/-! ## Encoding and decoding -/

/-- R47, R51, R60: the decoder gives back every command from its word, every operand at every value. -/
def Obligations.DecodeOfEncodeIsTheCommand : Prop :=
  ∀ i : Instr, decode (encode i) = .instr i

/-- R47, R57: the command decoded from a word keeps its opcode, and for INIT and UPDATE every bit of the word. -/
def Obligations.EncodeOfDecodeKeepsUsedBits : Prop :=
  ∀ (cw : CmdWord) (i : Instr), decode cw = .instr i →
    opField (encode i) = opField cw ∧ (opField cw = 0x01 ∨ opField cw = 0x02 → encode i = cw)

/-- R51, R56, R60: the opcode map in match and mask form, the fields at the bits of R47, and 0x04 to 0xFF reserved. -/
def Obligations.OpcodeMapByMaskAndMatch : Prop :=
  ∀ cw : CmdWord,
    let len : Byte := (cw >>> 8).setWidth 8
    let lane := fun i : Nat => (cw >>> (16 + 8 * i)).setWidth 8
    let lanes : Lanes := ⟨lane 0, lane 1, lane 2, lane 3, lane 4, lane 5, lane 6, lane 7⟩
    (cw &&& 0xFF = 0x00 → decode cw = .instr .nop) ∧
    (cw &&& 0xFF = 0x01 → decode cw = .instr (.init len lanes)) ∧
    (cw &&& 0xFF = 0x02 → decode cw = .instr (.update len lanes)) ∧
    (cw &&& 0xFF = 0x03 → decode cw = .instr .finalize) ∧
    (0x04 ≤ cw &&& 0xFF → decode cw = .reserved (cw.setWidth 8))

/-- Words written out in spec/95_test_vectors.md section 8 decode to the commands they stand for. -/
def Obligations.WrittenWordsDecode : Prop :=
  decode 0x00000000000000000000 = .instr .nop ∧
  decode 0x07060504030201000801 = .instr (.init 8 ⟨0, 1, 2, 3, 4, 5, 6, 7⟩) ∧
  decode 0x00000000006362610302 = .instr (.update 3 ⟨0x61, 0x62, 0x63, 0, 0, 0, 0, 0⟩) ∧
  decode 0x00000000000000000003 = .instr .finalize ∧
  decode 0x00000000000000000004 = .reserved 4

/-- R49: `lane[i]` is byte `i` of the payload `cw[79:16]`, and the two key words are its two halves. -/
def Obligations.LanesAndKeyWordsAreSlicesOfTheWord : Prop :=
  ∀ cw : CmdWord,
    (∀ i, i < 8 → laneField cw i = cw.extractLsb' (16 + 8 * i) 8 ∧
      laneField cw i = (cw.extractLsb' 16 64).extractLsb' (8 * i) 8) ∧
    keyWord0 (lanesField cw) = cw.extractLsb' 16 32 ∧ keyWord1 (lanesField cw) = cw.extractLsb' 48 32

/-- R50: the ten-byte form of a command word is little-endian, and reading it back gives the word; with the rule's
example. -/
def Obligations.TenByteFormIsLittleEndian : Prop :=
  (∀ (cw : CmdWord) (rest : List Byte),
    cmdBytes cw = (List.range 10).map (fun i => cw.extractLsb' (8 * i) 8) ∧
    cmdBytes cw = opField cw :: lenField cw :: (List.range 8).map (laneField cw) ∧
    cmdOfBytes (cmdBytes cw ++ rest) = some (cw, rest)) ∧
  (∀ cw : CmdWord, opField cw = (cw &&& 0xFF).setWidth 8) ∧
  encode (.init 16 ⟨0, 1, 2, 3, 4, 5, 6, 7⟩) = 0x07060504030201001001 ∧
  cmdBytes 0x07060504030201001001 = [0x01, 0x10, 0x00, 0x01, 0x02, 0x03, 0x04, 0x05, 0x06, 0x07]

/-- R59: the fields of a response word and its five-byte form; with the rule's example. -/
def Obligations.ResponseWordLayout : Prop :=
  (∀ (code : Byte) (d : Word),
    rspCode (rspWord code d) = code ∧ rspDigest (rspWord code d) = d ∧
    rspBytes (rspWord code d) = code :: bytesLe d) ∧
  rspWord 0 0x5B9F35A9 = 0x5B9F35A900 ∧ rspBytes 0x5B9F35A900 = [0x00, 0xA9, 0x35, 0x9F, 0x5B]

/-! ## Rounds and words -/

/-- R66: SIPROUND in single-assignment form. -/
def Obligations.RoundInSingleAssignmentForm : Prop :=
  ∀ a b c d : Word,
    let a1 := a + b
    let b1 := rotl32 b 5
    let b2 := b1 ^^^ a1
    let a2 := rotl32 a1 16
    let c1 := c + d
    let d1 := rotl32 d 8
    let d2 := d1 ^^^ c1
    let a3 := a2 + d2
    let d3 := rotl32 d2 7
    let d4 := d3 ^^^ a3
    let c2 := c1 + b2
    let b3 := rotl32 b2 13
    let b4 := b3 ^^^ c2
    let c3 := rotl32 c2 16
    sipRound ⟨a, b, c, d⟩ = ⟨a3, b4, c3, d4⟩

/-- R67: SIPROUND is a bijection, and the rule's formulas compute its inverse. -/
def Obligations.RoundIsABijection : Prop :=
  Function.Bijective sipRound ∧
  (∀ v : Regs, sipRoundInverse (sipRound v) = v ∧ sipRound (sipRoundInverse v) = v) ∧
  (∀ (x : Word) (n : Nat), rotr32 x n = rotl32 x (32 - n)) ∧
  ∀ a3 b4 c3 d4 : Word,
    let c2 := rotr32 c3 16
    let b3 := b4 ^^^ c2
    let b2 := rotr32 b3 13
    let c1 := c2 - b2
    let d3 := d4 ^^^ a3
    let d2 := rotr32 d3 7
    let a2 := a3 - d2
    let d1 := d2 ^^^ c1
    let d := rotr32 d1 8
    let c := c1 - d
    let a1 := rotr32 a2 16
    let b1 := b2 ^^^ a1
    let b := rotr32 b1 5
    let a := a1 - b
    sipRoundInverse ⟨a3, b4, c3, d4⟩ = ⟨a, b, c, d⟩

/-- R70: the fixed point, and the rule's table of one-line examples. -/
def Obligations.RoundExamples : Prop :=
  sipRound ⟨0, 0, 0, 0⟩ = ⟨0, 0, 0, 0⟩ ∧
  sipRound ⟨1, 0, 0, 0⟩ = ⟨0x00010000, 0x00002001, 0x00010000, 0x00010000⟩ ∧
  sipRound ⟨0, 1, 0, 0⟩ = ⟨0x00010000, 0x00042021, 0x00210000, 0x00010000⟩ ∧
  sipRound ⟨0, 0, 1, 0⟩ = ⟨0x00000001, 0x00000001, 0x00010000, 0x00000081⟩ ∧
  sipRound ⟨0, 0, 0, 1⟩ = ⟨0x00000101, 0x00000001, 0x00010000, 0x00008181⟩ ∧
  sipRound ⟨0xFFFFFFFF, 0xFFFFFFFF, 0xFFFFFFFF, 0xFFFFFFFF⟩ = ⟨0xFFFF0000, 0xFFFFDFFF, 0xFFFFFFFF, 0xFFFF0080⟩ ∧
  sipRound ⟨0x03020100, 0x07060504, 0x6F7B6665, 0x73636166⟩ = ⟨0x87C3ABC0, 0xD977F316, 0x6E4FCDA7, 0x58137780⟩

/-- R68: `SIPROUNDS(n)` is SIPROUND applied `n` times, and the two counts in use are 2 and 4; with the table of section
3.5 of spec/95_test_vectors.md. -/
def Obligations.RoundsAreRepeatedRound : Prop :=
  (∀ (n : Nat) (v : Regs), sipRounds n v = sipRound^[n] v) ∧ cRounds = 2 ∧ fRounds = 4 ∧
  sipRounds 2 ⟨0x03020100, 0x07060504, 0x6F7B6665, 0x73636166⟩ = ⟨0x73EB26BA, 0xA9A8E8CC, 0x41341629, 0xF9899950⟩ ∧
  sipRounds 4 ⟨0x03020100, 0x07060504, 0x6F7B6665, 0x73636166⟩ = ⟨0x806D11F2, 0x3EDFC83B, 0xEEAC4B1C, 0xDE6BF013⟩

/-- R78: COMPRESS xors the word into `v3`, runs SIPROUND twice and xors the word into `v0`; with the rule's example. -/
def Obligations.CompressIsXorRoundsXor : Prop :=
  (∀ (m v0 v1 v2 v3 : Word),
    let w := sipRound (sipRound ⟨v0, v1, v2, v3 ^^^ m⟩)
    compress m ⟨v0, v1, v2, v3⟩ = ⟨w.v0 ^^^ m, w.v1, w.v2, w.v3⟩) ∧
  0x73636166#32 ^^^ 0x03020100 = 0x70616066 ∧
  sipRound ⟨0x03020100, 0x07060504, 0x6F7B6665, 0x70616066⟩ = ⟨0xC4C0AAC3, 0xDE75F016, 0x6D4FCAA5, 0x9A90F71C⟩ ∧
  sipRound ⟨0xC4C0AAC3, 0xDE75F016, 0x6D4FCAA5, 0x9A90F71C⟩ = ⟨0x31F18091, 0x66691472, 0x59C37569, 0xBA1F2D5A⟩ ∧
  compress 0x03020100 ⟨0x03020100, 0x07060504, 0x6F7B6665, 0x73636166⟩ =
    ⟨0x32F38191, 0x66691472, 0x59C37569, 0xBA1F2D5A⟩

/-- R79: ABSORB buffers the byte at index `fill` while `fill < 3`; the fourth byte completes the word, which is
compressed, adds 4 to `total` modulo 256 and clears the buffer. -/
def Obligations.AbsorbBuffersOrCompresses : Prop :=
  ∀ (v : Regs) (s0 s1 s2 : Byte) (total x : Byte),
    absorb ⟨v, ⟨s0, s1, s2⟩, 0, total⟩ x = ⟨v, ⟨x, s1, s2⟩, 1, total⟩ ∧
    absorb ⟨v, ⟨s0, s1, s2⟩, 1, total⟩ x = ⟨v, ⟨s0, x, s2⟩, 2, total⟩ ∧
    absorb ⟨v, ⟨s0, s1, s2⟩, 2, total⟩ x = ⟨v, ⟨s0, s1, x⟩, 3, total⟩ ∧
    absorb ⟨v, ⟨s0, s1, s2⟩, 3, total⟩ x =
      ⟨compress (le32 s0 s1 s2 x) v, ⟨0, 0, 0⟩, 0, BitVec.ofNat 8 ((total.toNat + 4) % 256)⟩

/-! ## The commands -/

/-- R99: NOP, any word with `op = 0x00`, is accepted in every phase; it writes nothing and responds OK with a zero
digest. -/
def Obligations.NopOnlyResponds : Prop :=
  (∀ s : State, exec .nop s = .next { s with rsp := some 0x0000000000 }) ∧
  (∀ cw : CmdWord, opField cw = 0x00 → decode cw = .instr .nop)

/-- R72 to R76: the whole command INIT, accepted and rejected, with its responses. -/
def Obligations.InitLoadsKeyedStateOrRejects : Prop :=
  ∀ (len : Byte) (l : Lanes) (s : State),
    let k0 := le32 l.lane0 l.lane1 l.lane2 l.lane3
    let k1 := le32 l.lane4 l.lane5 l.lane6 l.lane7
    (8 ≤ len.toNat → exec (.init len l) s = .next { s with
      hash := ⟨⟨k0, k1, 0x6C796765 ^^^ k0, 0x74656462 ^^^ k1⟩, ⟨0, 0, 0⟩, 0, 0⟩
      phase := .active
      err := 0
      rsp := some 0x0000000000 }) ∧
    (len.toNat < 8 → exec (.init len l) s = .next { s with
      err := if s.err = 0 then 1 else s.err
      rsp := some 0x0000000001 })

/-- R42, R77, R102: an accepted INIT leaves the same state whatever stood before it, and whatever legal length it
gives. -/
def Obligations.InitErasesEarlierState : Prop :=
  ∀ (len len' : Byte) (l : Lanes) (s s' : State), 8 ≤ len.toNat → 8 ≤ len'.toNat →
    ∃ t t', exec (.init len l) s = .next t ∧ exec (.init len' l) s' = .next t' ∧
      t.hash = t'.hash ∧ t.phase = t'.phase ∧ t.err = t'.err ∧ t.rsp = t'.rsp

/-- R81, R82: the whole command UPDATE: the three rejections in the order of R81, and the fold of ABSORB over the
first `len` lanes. -/
def Obligations.UpdateAbsorbsLanesOrRejects : Prop :=
  ∀ (len : Byte) (l : Lanes) (s : State),
    let lanes := [l.lane0, l.lane1, l.lane2, l.lane3, l.lane4, l.lane5, l.lane6, l.lane7]
    let rejected := fun c : BitVec 3 => { s with
      err := if s.err = 0 then c else s.err
      rsp := some (0#32 ++ c.setWidth 8) }
    (s.phase = .idle → exec (.update len l) s = .next (rejected 3)) ∧
    (s.phase = .done → exec (.update len l) s = .next (rejected 2)) ∧
    (s.phase = .active → 8 < len.toNat → exec (.update len l) s = .next (rejected 4)) ∧
    (s.phase = .active → len.toNat ≤ 8 → exec (.update len l) s = .next { s with
      hash := (lanes.take len.toNat).foldl absorb s.hash
      rsp := some 0x0000000000 })

/-- R83: the closed form of an accepted UPDATE. A place past the end of the bytes in hand reads as 0, so the last
three lines also say that the slots at `fill` and above are zero. The premise is the invariant V2 of R27. -/
def Obligations.UpdateClosedForm : Prop :=
  ∀ (len : Byte) (l : Lanes) (s : State), s.phase = .active → len.toNat ≤ 8 → BufClean s.hash →
    let f := s.hash.fill.toNat
    let bytes := pending s.hash ++ payload len l
    let q := (f + len.toNat) / 4
    ∃ t, exec (.update len l) s = .next t ∧
      t.hash.v = ((List.range q).map fun j =>
        le32 (bytes.getD (4 * j) 0) (bytes.getD (4 * j + 1) 0) (bytes.getD (4 * j + 2) 0)
          (bytes.getD (4 * j + 3) 0)).foldl (fun v m => compress m v) s.hash.v ∧
      t.hash.fill.toNat = (f + len.toNat) % 4 ∧
      t.hash.total.toNat = (s.hash.total.toNat + 4 * q) % 256 ∧
      q ≤ 2 ∧ bytes.length = f + len.toNat ∧
      t.hash.buf.slot0 = bytes.getD (4 * q) 0 ∧
      t.hash.buf.slot1 = bytes.getD (4 * q + 1) 0 ∧
      t.hash.buf.slot2 = bytes.getD (4 * q + 2) 0

/-- R84: the state after a sequence of accepted UPDATEs depends on the state before and on the concatenation of their
bytes alone, and an UPDATE of no bytes changes nothing. -/
def Obligations.UpdateChunkInvariance : Prop :=
  (∀ (us ws : List Instr) (s : State), s.phase = .active →
    (∀ i ∈ us, isLegalUpdate i = true) → (∀ i ∈ ws, isLegalUpdate i = true) → streamOf us = streamOf ws →
    ∃ t u, execAll us s = .next t ∧ execAll ws s = .next u ∧ AllAccepted us s ∧ AllAccepted ws s ∧
      { t with rsp := none } = { u with rsp := none }) ∧
  (∀ (l : Lanes) (s : State), s.phase = .active →
    exec (.update 0 l) s = .next { s with rsp := some 0x0000000000 })

/-- R85: an accepted UPDATE with `fill + len < 4` changes only `buf` and `fill`. -/
def Obligations.PartialWordStaysPending : Prop :=
  ∀ (len : Byte) (l : Lanes) (s : State), s.phase = .active → s.hash.fill.toNat + len.toNat < 4 →
    ∃ b f, exec (.update len l) s = .next { s with
      hash := { s.hash with buf := b, fill := f }
      rsp := some 0x0000000000 }

/-- R27 V4: after an accepted INIT and accepted UPDATEs carrying `n` bytes, with any number of NOPs among them,
`fill = n mod 4` and `total = (n - fill) mod 256`. -/
def Obligations.PositionCountsTheStream : Prop :=
  ∀ (len : Byte) (l : Lanes) (cmds : List Instr) (s : State), 8 ≤ len.toNat →
    (∀ i ∈ cmds, isLegalUpdate i = true ∨ i = .nop) →
    let n := (streamOf cmds).length
    ∃ t, execAll (.init len l :: cmds) s = .next t ∧ t.phase = .active ∧
      t.hash.fill.toNat = n % 4 ∧ t.hash.total.toNat = (n - n % 4) % 256

/-- R91: the length byte is `(total + fill) mod 256`, and where `total[1:0] = 0` it is `total[7:2]` above `fill`. -/
def Obligations.LengthByteIsTotalPlusFill : Prop :=
  ∀ h : HashState,
    (lengthByte h).toNat = (h.total.toNat + h.fill.toNat) % 256 ∧
    (TotalAligned h → lengthByte h = h.total.extractLsb' 2 6 ++ h.fill)

/-- R92: the four cases of the final word, and its one form where the slots at `fill` and above are zero. -/
def Obligations.FinalWordByFill : Prop :=
  ∀ (v : Regs) (s0 s1 s2 total : Byte) (fill : BitVec 2),
    let h : HashState := ⟨v, ⟨s0, s1, s2⟩, fill, total⟩
    (fill = 0 → finalWord h = lengthByte h ++ 0#8 ++ 0#8 ++ 0#8) ∧
    (fill = 1 → finalWord h = lengthByte h ++ 0#8 ++ 0#8 ++ s0) ∧
    (fill = 2 → finalWord h = lengthByte h ++ 0#8 ++ s1 ++ s0) ∧
    (fill = 3 → finalWord h = lengthByte h ++ s2 ++ s1 ++ s0) ∧
    (BufClean h → finalWord h = le32 s0 s1 s2 (lengthByte h))

/-- R90 to R96: the whole command FINALIZE: its two rejections, and the accepted command with its response. -/
def Obligations.FinalizeDeliversDigestOrRejects : Prop :=
  ∀ s : State,
    let h := s.hash
    let rejected := fun c : BitVec 3 => { s with
      err := if s.err = 0 then c else s.err
      rsp := some (0#32 ++ c.setWidth 8) }
    let b0 : Word := (h.total + h.fill.setWidth 8).setWidth 32 <<< 24
    let b1 := if 1 ≤ h.fill.toNat then b0 ||| h.buf.slot0.setWidth 32 else b0
    let b2 := if 2 ≤ h.fill.toNat then b1 ||| (h.buf.slot1.setWidth 32 <<< 8) else b1
    let b := if 3 ≤ h.fill.toNat then b2 ||| (h.buf.slot2.setWidth 32 <<< 16) else b2
    let w := sipRounds 2 ⟨h.v.v0, h.v.v1, h.v.v2, h.v.v3 ^^^ b⟩
    let r := sipRounds 4 ⟨w.v0 ^^^ b, w.v1, w.v2 ^^^ 0x000000FF, w.v3⟩
    (s.phase = .idle → exec .finalize s = .next (rejected 3)) ∧
    (s.phase = .done → exec .finalize s = .next (rejected 2)) ∧
    (s.phase = .active → exec .finalize s = .next { s with
      hash := ⟨r, ⟨0, 0, 0⟩, 0, h.total⟩
      phase := .done
      rsp := some ((r.v1 ^^^ r.v3) ++ 0#8) })

/-! ## Frames, rejections, responses -/

/-- What a command leaves unchanged: the port and the reset counter always; and by command what R22, R72, R80, R89,
R95, R99 and R110 say. -/
def Obligations.FrameOfEveryCommand : Prop :=
  ∀ (i : Instr) (s t : State), exec i s = .next t →
    t.port = s.port ∧ t.resets = s.resets ∧
    (Rejected t → t.hash = s.hash ∧ t.phase = s.phase) ∧
    (i = .nop → t.hash = s.hash ∧ t.phase = s.phase ∧ t.err = s.err) ∧
    ((∃ len l, i = .update len l) → t.phase = s.phase ∧ (Accepted t → t.err = s.err)) ∧
    (i = .finalize → t.hash.total = s.hash.total ∧ (Accepted t → t.err = s.err))

/-- R17: only an accepted INIT, a word completed by UPDATE and an accepted FINALIZE write the registers, among the
commands. (What a reset leaves in them is a free value of the model, log 6.) -/
def Obligations.WritersOfTheHashRegisters : Prop :=
  ∀ (d : Decoded) (s t : State), execDecoded d s = .next t → t.hash.v ≠ s.hash.v →
    Accepted t ∧
    ((∃ len l, d = .instr (.init len l)) ∨
     (∃ len l, d = .instr (.update len l) ∧ 4 ≤ s.hash.fill.toNat + len.toNat) ∨
     d = .instr .finalize)

/-- R57: the fields a command does not use do not change what it does; an accepted INIT uses all eight lanes. -/
def Obligations.IgnoredFieldsChangeNothing : Prop :=
  (∀ (cw cw' : CmdWord) (s : State), opField cw = opField cw' →
    opField cw = 0x00 ∨ opField cw = 0x03 ∨ 0x04 ≤ opField cw →
    execDecoded (decode cw) s = execDecoded (decode cw') s) ∧
  (∀ (len : Byte) (l l' : Lanes) (s : State),
    (s.phase = .active → len.toNat ≤ 8 → ∀ i, i < len.toNat → (laneList l)[i]? = (laneList l')[i]?) →
    exec (.update len l) s = exec (.update len l') s) ∧
  (∀ (len : Byte) (l l' : Lanes) (s : State), len.toNat < 8 →
    exec (.init len l) s = exec (.init len l') s) ∧
  (∀ (len : Byte) (l l' : Lanes) (s t t' : State), 8 ≤ len.toNat →
    exec (.init len l) s = .next t → exec (.init len l') s = .next t' → t.hash = t'.hash → l = l')

/-- R110: a rejected command, whatever its cause, writes `err` if it is 0, answers with the code and a zero digest,
and changes nothing else. -/
def Obligations.RejectionChangesOnlyErr : Prop :=
  ∀ (d : Decoded) (s t : State), execDecoded d s = .next t → Rejected t →
    ∃ c : Cause, t = { s with
      err := if s.err = 0 then c.code else s.err
      rsp := some (0#32 ++ c.code.setWidth 8) }

/-- R112: the response code and the next phase of every command in every phase, and of every reserved opcode; only an
accepted FINALIZE answers with a digest field that is not zero (R59). -/
def Obligations.ResponseCodeTable : Prop :=
  (∀ (i : Instr) (s : State), ∃ t r, exec i s = .next t ∧ t.rsp = some r ∧
    rspCode r = tableCode i s.phase ∧ t.phase = tablePhase i s.phase ∧
    (rspDigest r ≠ 0 → i = .finalize ∧ s.phase = .active)) ∧
  (∀ (op : Byte) (s : State), ∃ t, execDecoded (.reserved op) s = .next t ∧ t.rsp = some 0x0000000005 ∧
    t.phase = s.phase)

/-- R24: `err` is written by reset, by an accepted INIT (both write 0) and by a rejection that finds it 0; and no
command does anything else for another value of `err`. -/
def Obligations.ErrIsStickyAndGatesNothing : Prop :=
  (∀ (d : Decoded) (s t : State), execDecoded d s = .next t →
    (Accepted t → (∃ len l, d = .instr (.init len l)) → t.err = 0) ∧
    (Accepted t → (∀ len l, d ≠ .instr (.init len l)) → t.err = s.err) ∧
    (Rejected t → s.err = 0 → t.err ≠ 0 ∧ t.rsp.map rspCode = some (t.err.setWidth 8)) ∧
    (Rejected t → s.err ≠ 0 → t.err = s.err)) ∧
  (∀ s : State, (applyReset s).err = 0 ∧ (holdState s).err = s.err) ∧
  (∀ (d : Decoded) (s : State) (e : BitVec 3), ∃ t u, execDecoded d s = .next t ∧
    execDecoded d { s with err := e } = .next u ∧ { t with err := 0 } = { u with err := 0 })

/-- In ACTIVE a command is accepted exactly when its operands are legal (R53, R72, R112). -/
def Obligations.LegalOperandsAreAcceptedInActive : Prop :=
  ∀ (i : Instr) (s : State), s.phase = .active →
    ∃ t, exec i s = .next t ∧ (Accepted t ↔ i.wellFormed = true)

/-- R25: the fields of STATUS and the gating of DIGEST; once visible, DIGEST stays for as long as the core is in
DONE. -/
def Obligations.StatusAndDigestOutputs : Prop :=
  (∀ s : State,
    (s.phase = .idle → (status s).extractLsb' 0 2 = 0) ∧
    (s.phase = .active → (status s).extractLsb' 0 2 = 1) ∧
    (s.phase = .done → (status s).extractLsb' 0 2 = 2) ∧
    (status s).extractLsb' 2 3 = s.err ∧ (status s).extractLsb' 5 3 = 0 ∧
    digestOut s = if s.phase = .done then s.hash.v.v1 ^^^ s.hash.v.v3 else 0) ∧
  (∀ s t : State, s.phase = .done → step s = .next t → t.phase = .done → digestOut t = digestOut s)

/-! ## The step -/

/-- R60, R127: a step with a command word presented whose opcode is assigned is the decoded command, executed on the
state with that word taken off the port. -/
def Obligations.StepRunsTheDecodedCommand : Prop :=
  ∀ (s : State) (cw : CmdWord) (rest : List HostInput) (i : Instr),
    s.port = .command cw :: rest → decode cw = .instr i → step s = exec i { s with port := rest }

/-- R56, R111: a step with a reserved opcode presented is rejected with IllegalCommand, in every phase and whatever
the other fields hold. -/
def Obligations.StepRejectsReservedOpcodes : Prop :=
  ∀ (s : State) (cw : CmdWord) (rest : List HostInput),
    s.port = .command cw :: rest → 0x04 ≤ opField cw →
    step s = .next { s with
      port := rest
      err := if s.err = 0 then 5 else s.err
      rsp := some 0x0000000005 }

/-- R120, R122: a reset step gives IDLE, `err` 0, STATUS 0x00 and DIGEST 0; the hashing state after it is free. -/
def Obligations.StepTakesReset : Prop :=
  ∀ (s : State) (rest : List HostInput), s.port = .reset :: rest →
    ∃ t, step s = .next t ∧ t.phase = .idle ∧ t.err = 0 ∧ status t = 0x00 ∧ digestOut t = 0 ∧ t.port = rest

/-- R116, R131 (Idle row): with NOP or nothing presented a step holds the state and the host gets back code 0; the
digest field of that response is zero (R59). With nothing presented the step is that of a NOP. -/
def Obligations.StepHoldsWithNothingPresented : Prop :=
  (∀ s : State, s.port = [] → step s = .next { s with rsp := some 0x0000000000 } ∧ step s = exec .nop s) ∧
  (∀ (s : State) (cw : CmdWord) (rest : List HostInput), s.port = .command cw :: rest → opField cw = 0x00 →
    step s = .next { s with port := rest, rsp := some 0x0000000000 })

/-- R131: the codes the host can get back from each interaction: 0 or 1 for INIT; 0, 2, 3 or 4 for UPDATE; 0, 2 or 3
for FINALIZE; 0 for NOP or nothing. -/
def Obligations.HostGetsBackTheCodesOfItsInteraction : Prop :=
  ∀ s t : State, step s = .next t →
    (s.port = [] → t.rsp.map rspCode = some 0) ∧
    ∀ (cw : CmdWord) (rest : List HostInput), s.port = .command cw :: rest →
      ∃ r, t.rsp = some r ∧
        (opField cw = 0x00 → rspCode r = 0) ∧
        (opField cw = 0x01 → rspCode r = 0 ∨ rspCode r = 1) ∧
        (opField cw = 0x02 → rspCode r = 0 ∨ rspCode r = 2 ∨ rspCode r = 3 ∨ rspCode r = 4) ∧
        (opField cw = 0x03 → rspCode r = 0 ∨ rspCode r = 2 ∨ rspCode r = 3)

/-- R120, R122: the reset state is in IDLE with no error, STATUS 0x00 and DIGEST 0. -/
def Obligations.ResetStateOutputs : Prop :=
  State.reset.phase = .idle ∧ State.reset.err = 0 ∧ status State.reset = 0x00 ∧ digestOut State.reset = 0

/-- R128, R129: every step from every state gives a next state: the core never halts; NOP and an INIT of at least
eight key bytes are accepted everywhere. -/
def Obligations.EveryStepCompletes : Prop :=
  (∀ s : State, ∃ t, step s = .next t) ∧
  (∀ s : State, ∃ t, exec .nop s = .next t ∧ Accepted t) ∧
  (∀ (len : Byte) (l : Lanes) (s : State), 8 ≤ len.toNat →
    ∃ t, exec (.init len l) s = .next t ∧ Accepted t ∧ t.phase = .active)

/-- R126: the lifecycle, by what the host presents: reset gives IDLE, an assigned command the phase of the table,
anything else leaves it; and no step but a reset leads back to IDLE. -/
def Obligations.LifecycleTable : Prop :=
  ∀ s t : State, step s = .next t →
    (s.port = [] → t.phase = s.phase) ∧
    (∀ rest, s.port = .reset :: rest → t.phase = .idle) ∧
    (∀ cw rest i, s.port = .command cw :: rest → decode cw = .instr i → t.phase = tablePhase i s.phase) ∧
    (∀ cw rest op, s.port = .command cw :: rest → decode cw = .reserved op → t.phase = s.phase) ∧
    (s.phase ≠ .idle → t.phase = .idle → ∃ rest, s.port = .reset :: rest)

/-! ## Whole-machine rules -/

/-- R27: every step keeps the invariants V2, V3, V5 and V7 (V1 holds by the type of `phase`). -/
def Obligations.EveryStepKeepsTheStateInvariant : Prop :=
  ∀ s t : State, Inv s → step s = .next t → Inv t

/-- R27: the invariants hold at reset. -/
def Obligations.ResetMeetsTheStateInvariant : Prop := Inv State.reset

/-- R27 V6, R120, R133: the contents of the hashing state in IDLE can't be observed: two states that differ in
nothing else give the same outputs and responses in every step, and stay so. -/
def Obligations.UnspecifiedContentsAreInvisible : Prop :=
  ∀ s t : State, SameButUnspecified s t →
    status s = status t ∧ digestOut s = digestOut t ∧
    ∃ s' t', step s = .next s' ∧ step t = .next t' ∧ SameButUnspecified s' t'

/-- R128: after a sequence of commands without INIT, `err = 0` means that every command of it was accepted and that
`err` was 0 before it. -/
def Obligations.ZeroErrMeansAllAccepted : Prop :=
  ∀ (cmds : List Instr) (s t : State), (∀ i ∈ cmds, isInit i = false) →
    execAll cmds s = .next t → t.err = 0 → AllAccepted cmds s ∧ s.err = 0

/-- R2, R97, R103: an accepted INIT, legal UPDATEs with any number of NOPs among them, and a FINALIZE deliver the
digest of the concatenated message, computed in one piece from the eight key bytes and the message alone. -/
def Obligations.StreamedDigestIsTheOneShotDigest : Prop :=
  ∀ (len : Byte) (l : Lanes) (cmds : List Instr) (s : State), 8 ≤ len.toNat →
    (∀ i ∈ cmds, isLegalUpdate i = true ∨ i = .nop) →
    ∃ t, execAll (.init len l :: (cmds ++ [.finalize])) s = .next t ∧
      t.rsp = some (hsh32 l (streamOf cmds) ++ 0#8) ∧
      digestOut t = hsh32 l (streamOf cmds) ∧ t.phase = .done ∧ t.err = 0

/-- R100, R101, R102: the command words of `HASH key, msg` on the port, from any state, run through fetch, decode and
execution, end with the digest of the message under the first eight key bytes, in `ceil(n / 8) + 2` steps. -/
def Obligations.HashCommandsDeliverTheDigest : Prop :=
  ∀ (key msg : List Byte) (rest : List HostInput) (s : State), 8 ≤ key.length →
    s.port = asInputs (hashCommands key msg) ++ rest →
    (hashCommands key msg).length = (msg.length + 7) / 8 + 2 ∧
    ∃ t, Host.Core.run Sys2Proof.core ((msg.length + 7) / 8 + 2) s = .next t ∧ t.port = rest ∧
      t.rsp = some (hsh32 (padLanes key) msg ++ 0#8) ∧ t.phase = .done ∧ t.err = 0
end

