-- ==== Sys2Proof/Laws/Ops.lean ====
section
/-! SUPPORT. What the shared operations give: the packed word as a concatenation, rotation as Lean's own, the fields of
a response word, the three things the port can present. -/

namespace Sys2Proof.Machine

theorem le32_eq_append (b0 b1 b2 b3 : Byte) : le32 b0 b1 b2 b3 = b3 ++ b2 ++ b1 ++ b0 := by
  apply BitVec.eq_of_getLsbD_eq
  intro i hi
  simp only [le32, BitVec.getLsbD_or, BitVec.getLsbD_setWidth, BitVec.getLsbD_shiftLeft, BitVec.getLsbD_append, hi,
    decide_true, Bool.true_and]
  by_cases h8 : i < 8
  · simp [h8, show i < 16 by omega, show i < 24 by omega]
  · have z0 : b0.getLsbD i = false := BitVec.getLsbD_of_ge _ _ (by omega)
    by_cases h16 : i < 16
    · simp [z0, h8, h16, show i < 24 by omega, show i - 8 < 8 by omega, show i - 8 < 32 by omega]
    · have z1 : b1.getLsbD (i - 8) = false := BitVec.getLsbD_of_ge _ _ (by omega)
      by_cases h24 : i < 24
      · simp [z0, z1, h8, h16, h24, show ¬ i - 8 < 8 by omega, show i - 8 - 8 = i - 16 by omega,
          show i - 16 < 32 by omega]
        intro
        omega
      · have z2 : b2.getLsbD (i - 16) = false := BitVec.getLsbD_of_ge _ _ (by omega)
        simp [z0, z1, z2, h8, h16, h24, show ¬ i - 8 < 8 by omega, show ¬ i - 8 - 8 < 8 by omega,
          show i - 8 - 8 - 8 = i - 24 by omega, show i - 24 < 32 by omega]

/-- For the rotation amounts of R9 the rotation is Lean's own. -/
theorem rotl32_eq_rotateLeft (x : Word) (n : Nat) (h : n < 32) : rotl32 x n = x.rotateLeft n := by
  rw [BitVec.rotateLeft_def, Nat.mod_eq_of_lt h]
  rfl

@[simp] theorem rspCode_rspWord (code : Byte) (d : Word) : rspCode (rspWord code d) = code :=
  BitVec.extractLsb'_append_eq_right

@[simp] theorem rspDigest_rspWord (code : Byte) (d : Word) : rspDigest (rspWord code d) = d :=
  BitVec.extractLsb'_append_eq_left

/-- No cause has the code 0, which stands for OK (R107). -/
theorem Cause.code_ne_zero (c : Cause) : c.code ≠ 0 := by cases c <;> decide

/-- A cause's code in the response word is not 0 either. -/
theorem Cause.setWidth_code_ne_zero (c : Cause) : c.code.setWidth 8 ≠ 0#8 := by cases c <;> decide

/-- No cause has a code above 5 (R107). -/
theorem Cause.code_le_five (c : Cause) : c.code.toNat ≤ 5 := by cases c <;> decide

theorem fetch_nil (s : State) (h : s.port = []) : fetch s = none := by simp [fetch, h]

theorem fetch_cons (s : State) (input : HostInput) (rest : List HostInput) (h : s.port = input :: rest) :
    fetch s = some (input, { s with port := rest }) := by simp [fetch, h]

theorem fetch_present (cw : CmdWord) (s : State) : fetch (present cw s) = some (.command cw, s) := rfl

theorem keyTooShort_iff (len : Byte) : keyTooShort len = true ↔ len.toNat < 8 :=
  decide_eq_true_iff

theorem tooManyBytes_iff (len : Byte) : tooManyBytes len = true ↔ 8 < len.toNat :=
  decide_eq_true_iff

theorem payload_length (len : Byte) (l : Lanes) (h : len.toNat ≤ 8) : (payload len l).length = len.toNat := by
  simp [payload, laneList, h]

/-- A step with nothing presented answers as a NOP does (R99, R131). -/
theorem holdState_eq_respondOk (s : State) : holdState s = respondOk 0 s := rfl

/-- DIGEST in DONE and outside it (R25). -/
theorem digestOut_eq (s : State) : digestOut s = if s.phase = .done then digestWord s.hash.v else 0 := by
  cases h : s.phase <;> simp [digestOut, h]

end Sys2Proof.Machine
end

