-- ==== Sys2Proof/Laws/State.lean ====
section
/-! SUPPORT. One lemma per field of State and per shared operation, each true by rfl: what the operation leaves in the
field. -/

namespace Sys2Proof.Machine

@[simp] theorem respondOk_hash (d : Word) (s : State) : (respondOk d s).hash = s.hash := rfl
@[simp] theorem respondOk_phase (d : Word) (s : State) : (respondOk d s).phase = s.phase := rfl
@[simp] theorem respondOk_err (d : Word) (s : State) : (respondOk d s).err = s.err := rfl
@[simp] theorem respondOk_port (d : Word) (s : State) : (respondOk d s).port = s.port := rfl
@[simp] theorem respondOk_rsp (d : Word) (s : State) : (respondOk d s).rsp = some (rspWord 0 d) := rfl
@[simp] theorem respondOk_resets (d : Word) (s : State) : (respondOk d s).resets = s.resets := rfl

@[simp] theorem reject_hash (c : Cause) (s : State) : (reject c s).hash = s.hash := rfl
@[simp] theorem reject_phase (c : Cause) (s : State) : (reject c s).phase = s.phase := rfl
@[simp] theorem reject_err (c : Cause) (s : State) : (reject c s).err = if s.err = 0 then c.code else s.err := rfl
@[simp] theorem reject_port (c : Cause) (s : State) : (reject c s).port = s.port := rfl
@[simp] theorem reject_rsp (c : Cause) (s : State) : (reject c s).rsp = some (rspWord (c.code.setWidth 8) 0) := rfl
@[simp] theorem reject_resets (c : Cause) (s : State) : (reject c s).resets = s.resets := rfl

@[simp] theorem applyReset_hash (s : State) : (applyReset s).hash = Config.resetResidue s.resets s.hash := rfl
@[simp] theorem applyReset_phase (s : State) : (applyReset s).phase = .idle := rfl
@[simp] theorem applyReset_err (s : State) : (applyReset s).err = 0 := rfl
@[simp] theorem applyReset_port (s : State) : (applyReset s).port = s.port := rfl
@[simp] theorem applyReset_rsp (s : State) : (applyReset s).rsp = none := rfl
@[simp] theorem applyReset_resets (s : State) : (applyReset s).resets = s.resets + 1 := rfl

@[simp] theorem holdState_hash (s : State) : (holdState s).hash = s.hash := rfl
@[simp] theorem holdState_phase (s : State) : (holdState s).phase = s.phase := rfl
@[simp] theorem holdState_err (s : State) : (holdState s).err = s.err := rfl
@[simp] theorem holdState_port (s : State) : (holdState s).port = s.port := rfl
@[simp] theorem holdState_rsp (s : State) : (holdState s).rsp = some (rspWord 0 0) := rfl
@[simp] theorem holdState_resets (s : State) : (holdState s).resets = s.resets := rfl

@[simp] theorem present_hash (cw : CmdWord) (s : State) : (present cw s).hash = s.hash := rfl
@[simp] theorem present_phase (cw : CmdWord) (s : State) : (present cw s).phase = s.phase := rfl
@[simp] theorem present_err (cw : CmdWord) (s : State) : (present cw s).err = s.err := rfl
@[simp] theorem present_port (cw : CmdWord) (s : State) : (present cw s).port = .command cw :: s.port := rfl
@[simp] theorem present_rsp (cw : CmdWord) (s : State) : (present cw s).rsp = s.rsp := rfl
@[simp] theorem present_resets (cw : CmdWord) (s : State) : (present cw s).resets = s.resets := rfl

end Sys2Proof.Machine
end

