-- ==== Sys2Proof/Laws/Exec.lean ====
section
/-! SUPPORT. What each meaning and the step can do, said once: every answer is a next state, and these are the next
states. -/

namespace Sys2Proof.Machine

theorem execInit_accepted (len : Byte) (l : Lanes) (s : State) (h : 8 ≤ len.toNat) :
    execInit len l s = .next (respondOk 0 { s with hash := keyedHash l, phase := .active, err := 0 }) := by
  simp [execInit, keyTooShort_iff, h]

theorem execInit_rejected (len : Byte) (l : Lanes) (s : State) (h : len.toNat < 8) :
    execInit len l s = .next (reject .invalidKeyLength s) := by
  simp [execInit, keyTooShort_iff, h]

theorem execUpdate_accepted (len : Byte) (l : Lanes) (s : State) (hp : s.phase = .active) (h : len.toNat ≤ 8) :
    execUpdate len l s = .next (respondOk 0 { s with hash := absorbAll s.hash (payload len l) }) := by
  simp [execUpdate, hp, tooManyBytes_iff, Nat.not_lt.mpr h]

theorem execUpdate_badLength (len : Byte) (l : Lanes) (s : State) (hp : s.phase = .active) (h : 8 < len.toNat) :
    execUpdate len l s = .next (reject .badLength s) := by
  simp [execUpdate, hp, tooManyBytes_iff, h]

theorem execUpdate_idle (len : Byte) (l : Lanes) (s : State) (hp : s.phase = .idle) :
    execUpdate len l s = .next (reject .notInitialized s) := by
  simp [execUpdate, hp]

theorem execUpdate_done (len : Byte) (l : Lanes) (s : State) (hp : s.phase = .done) :
    execUpdate len l s = .next (reject .illegalReuse s) := by
  simp [execUpdate, hp]

theorem execFinalize_accepted (s : State) (hp : s.phase = .active) :
    execFinalize s = .next (respondOk (digestWord (finalizeHash s.hash).v)
      { s with hash := finalizeHash s.hash, phase := .done }) := by
  simp [execFinalize, hp]

theorem execFinalize_idle (s : State) (hp : s.phase = .idle) :
    execFinalize s = .next (reject .notInitialized s) := by
  simp [execFinalize, hp]

theorem execFinalize_done (s : State) (hp : s.phase = .done) :
    execFinalize s = .next (reject .illegalReuse s) := by
  simp [execFinalize, hp]

/-- Everything a decoded command word can do: a NOP, an accepted INIT, UPDATE or FINALIZE, or a rejection. -/
theorem execDecoded_cases (d : Decoded) (s : State) :
    (d = .instr .nop ∧ execDecoded d s = .next (respondOk 0 s)) ∨
    (∃ len l, d = .instr (.init len l) ∧ 8 ≤ len.toNat ∧
      execDecoded d s = .next (respondOk 0 { s with hash := keyedHash l, phase := .active, err := 0 })) ∨
    (∃ len l, d = .instr (.update len l) ∧ s.phase = .active ∧ len.toNat ≤ 8 ∧
      execDecoded d s = .next (respondOk 0 { s with hash := absorbAll s.hash (payload len l) })) ∨
    (d = .instr .finalize ∧ s.phase = .active ∧
      execDecoded d s = .next (respondOk (digestWord (finalizeHash s.hash).v)
        { s with hash := finalizeHash s.hash, phase := .done })) ∨
    (∃ c, execDecoded d s = .next (reject c s)) := by
  have rej : ∀ c, execDecoded d s = .next (reject c s) → ∃ c, execDecoded d s = .next (reject c s) :=
    fun c h => ⟨c, h⟩
  rcases d with (_ | ⟨len, l⟩ | ⟨len, l⟩ | _) | op
  · exact .inl ⟨rfl, rfl⟩
  · rcases Nat.lt_or_ge len.toNat 8 with h | h
    · exact .inr (.inr (.inr (.inr (rej _ (execInit_rejected len l s h)))))
    · exact .inr (.inl ⟨len, l, rfl, h, execInit_accepted len l s h⟩)
  · rcases hp : s.phase
    · exact .inr (.inr (.inr (.inr (rej _ (execUpdate_idle len l s hp)))))
    · rcases Nat.lt_or_ge 8 len.toNat with h | h
      · exact .inr (.inr (.inr (.inr (rej _ (execUpdate_badLength len l s hp h)))))
      · exact .inr (.inr (.inl ⟨len, l, rfl, rfl, h, hp ▸ execUpdate_accepted len l s hp h⟩))
    · exact .inr (.inr (.inr (.inr (rej _ (execUpdate_done len l s hp)))))
  · rcases hp : s.phase
    · exact .inr (.inr (.inr (.inr (rej _ (execFinalize_idle s hp)))))
    · exact .inr (.inr (.inr (.inl ⟨rfl, rfl, execFinalize_accepted s hp⟩)))
    · exact .inr (.inr (.inr (.inr (rej _ (execFinalize_done s hp)))))
  · exact .inr (.inr (.inr (.inr ⟨.illegalCommand, rfl⟩)))

/-- Everything a step can do. -/
theorem step_cases (s : State) :
    (s.port = [] ∧ step s = .next (holdState s)) ∨
    (∃ rest, s.port = .reset :: rest ∧ step s = .next (applyReset { s with port := rest })) ∨
    (∃ cw rest, s.port = .command cw :: rest ∧ step s = execDecoded (decode cw) { s with port := rest }) := by
  rcases h : s.port with _ | ⟨cw | _, rest⟩
  · exact .inl ⟨rfl, by simp [step, fetch_nil s h]⟩
  · exact .inr (.inr ⟨cw, rest, rfl, by simp [step, fetch_cons s _ _ h]⟩)
  · exact .inr (.inl ⟨rest, rfl, by simp [step, fetch_cons s _ _ h]⟩)

end Sys2Proof.Machine
end

