-- ==== Sys2Proof/Laws/PerInstr.lean ====
section
/-! SUPPORT. One lemma per command about its word: its lowest byte is the command's opcode (R47, R51). -/

namespace Sys2Proof.Laws.OpcodeByte

/-- The opcode field of the command's word is the command's opcode. -/
def Statement (i : Instr) : Prop := opField (encode i) = opcode i

theorem nop : Statement .nop := by
  show opField (encode .nop) = opcode .nop
  decide

theorem init (len : Byte) (lanes : Lanes) : Statement (.init len lanes) := BitVec.extractLsb'_append_eq_right

theorem update (len : Byte) (lanes : Lanes) : Statement (.update len lanes) := BitVec.extractLsb'_append_eq_right

theorem finalize : Statement .finalize := by
  show opField (encode .finalize) = opcode .finalize
  decide

end Sys2Proof.Laws.OpcodeByte
end

