-- ==== Sys2Proof/Laws/Stream.lean ====
section
/-! SUPPORT. The accumulator: what one ABSORB does for each fill count, and that absorbing a concatenation is absorbing
its parts in turn (R79, R84). -/

namespace Sys2Proof.Machine

@[simp] theorem absorbAll_nil (h : HashState) : absorbAll h [] = h := rfl

@[simp] theorem absorbAll_cons (h : HashState) (x : Byte) (bytes : List Byte) :
    absorbAll h (x :: bytes) = absorbAll (absorb h x) bytes := rfl

@[simp] theorem absorbAll_append (h : HashState) (xs ys : List Byte) :
    absorbAll h (xs ++ ys) = absorbAll (absorbAll h xs) ys := by
  simp [absorbAll]

/-- A byte that does not complete a word is buffered (R85). -/
theorem absorb_pending (h : HashState) (x : Byte) (hf : h.fill ≠ 3) :
    absorb h x = { h with buf := setSlot h.buf h.fill x, fill := h.fill + 1 } := by
  have : h.fill < 3#2 := by revert hf; generalize h.fill = f; revert f; decide
  simp [absorb, this]

/-- The fourth byte completes a word (R79). -/
theorem absorb_full (h : HashState) (x : Byte) (hf : h.fill = 3) :
    absorb h x = ⟨compress (le32 h.buf.slot0 h.buf.slot1 h.buf.slot2 x) h.v, ⟨0, 0, 0⟩, 0, h.total + 4⟩ := by
  simp [absorb, hf]

end Sys2Proof.Machine
end

