-- ==== Sys2Proof/Tests/Slice0.lean ====
section
/-! SUPPORT. Tests whose expected values are those of spec/95_test_vectors.md and of the rules' own examples (section
numbers below are that file's), and for every statement with hypotheses a witness that meets them. -/

namespace Sys2Proof.Tests

open Sys2Proof.Machine

/-- The next state of an outcome. -/
def answer : Host.Outcome State Fault Refusal → Option State
  | .next t => some t
  | .fault _ => none
  | .refused _ => none

/-- Key bytes 00 to 07. -/
def key07 : Lanes := ⟨0x00, 0x01, 0x02, 0x03, 0x04, 0x05, 0x06, 0x07⟩

/-- Lanes that hold zero. -/
def zeroLanes : Lanes := ⟨0, 0, 0, 0, 0, 0, 0, 0⟩

/-- The registers after INIT with key bytes 00 to 07 (section 4). -/
def regs07 : Regs := ⟨0x03020100, 0x07060504, 0x6F7B6665, 0x73636166⟩

/-- A state with the given phase, registers, pending bytes, fill count and total, no error and nothing presented. -/
def mk (p : Phase) (v : Regs) (b : Buf) (fill : BitVec 2) (total : Byte) : State :=
  { State.reset with hash := ⟨v, b, fill, total⟩, phase := p }

/-- The state after INIT with key bytes 00 to 07. -/
def keyed07 : State := mk .active regs07 ⟨0, 0, 0⟩ 0 0

/-- DONE, after FINALIZE of the empty message under key bytes 00 to 07 (P1). -/
def done07 : State := mk .done ⟨0x0A03762B, 0x37C09179, 0xD2839632, 0x6C5FA4D0⟩ ⟨0, 0, 0⟩ 0 0

/-! ## Well-formedness: an ill-formed term for each check -/

theorem test_short_key_is_ill_formed : (Instr.init 7 key07).wellFormed = false := by decide
theorem test_nine_bytes_are_ill_formed : (Instr.update 9 key07).wellFormed = false := by decide
theorem test_legal_operands_are_well_formed :
    (Instr.init 8 key07).wellFormed = true ∧ (Instr.update 8 key07).wellFormed = true := by decide

/-! ## Decoding: words written out from R47 and R51, section 8 -/

theorem test_decode_nop : decode 0x00000000000000000000 = .instr .nop := by decide
theorem test_decode_nop_ignores_fields : decode 0xFFEEDDCCBBAA99887700 = .instr .nop := by decide
theorem test_decode_init : decode 0x07060504030201001001 = .instr (.init 16 key07) := by decide
theorem test_decode_init_saturated :
    decode 0xFFFFFFFFFFFFFFFFFF01 = .instr (.init 255 ⟨255, 255, 255, 255, 255, 255, 255, 255⟩) := by decide
theorem test_decode_update :
    decode 0x00000000006362610302 = .instr (.update 3 ⟨0x61, 0x62, 0x63, 0, 0, 0, 0, 0⟩) := by decide
theorem test_decode_finalize : decode 0x00000000000000000003 = .instr .finalize := by decide
theorem test_decode_reserved : decode 0x00000000000000000004 = .reserved 0x04 ∧
    decode 0xFFFFFFFFFFFFFFFFFFFF = .reserved 0xFF := by decide
theorem test_encode_update_short : encode (.update 3 ⟨0x61, 0x62, 0x63, 0, 0, 0, 0, 0⟩) = 0x00000000006362610302 := by decide
theorem test_ten_bytes : cmdOfBytes [0x01, 0x10, 0x00, 0x01, 0x02, 0x03, 0x04, 0x05, 0x06, 0x07] =
    some (0x07060504030201001001, []) := by decide
theorem test_table_word : decodeTableWord 80 0x0706050403020100FF02 = some (.update 255 key07) ∧
    decodeTableWord 8 0x03 = some .finalize ∧ decodeTableWord 80 0x04 = none := by decide

/-! ## Primitives and rounds (sections 3.1, 3.2, 3.5) -/

theorem test_add32_wraps : add32 0xFFFFFFFF 0x00000001 = 0 ∧ add32 0x80000000 0x80000000 = 0 := by decide
theorem test_rotl32 : rotl32 0x80000001 31 = 0xC0000000 ∧ rotl32 0x12345678 13 = 0x8ACF0246 := by decide
theorem test_round : sipRound ⟨0x01234567, 0x89ABCDEF, 0xFEDCBA98, 0x76543210⟩ =
    ⟨0x345987AD, 0xE1336CB9, 0x9B4F34E7, 0xB527E8BD⟩ := by decide
theorem test_six_rounds : sipRounds 6 regs07 = ⟨0x4A1637C6, 0xA109CB6B, 0x63995512, 0x3F001340⟩ := by decide
theorem test_inverse_round : sipRoundInverse ⟨0x87C3ABC0, 0xD977F316, 0x6E4FCDA7, 0x58137780⟩ = regs07 := by decide
theorem test_compress_zero_is_no_nop : compress 0 regs07 = ⟨0x73EB26BA, 0xA9A8E8CC, 0x41341629, 0xF9899950⟩ := by decide

/-! ## INIT (section 4) -/

theorem test_init_key07 : (answer (exec (.init 16 key07) State.reset)).map (·.hash) =
    some ⟨regs07, ⟨0, 0, 0⟩, 0, 0⟩ := by decide
theorem test_init_key_cancels_constants :
    (answer (exec (.init 8 ⟨0x65, 0x67, 0x79, 0x6C, 0x62, 0x64, 0x65, 0x74⟩) done07)).map (·.hash.v) =
    some ⟨0x6C796765, 0x74656462, 0, 0⟩ := by decide

/-! ## UPDATE (P2, P5, section 5.4) -/

theorem test_update_two_then_three :
    (answer (exec (.update 3 ⟨0x02, 0x03, 0x04, 0, 0, 0, 0, 0⟩) (mk .active regs07 ⟨0x00, 0x01, 0⟩ 2 0))).map (·.hash) =
    some ⟨⟨0x32F38191, 0x66691472, 0x59C37569, 0xBA1F2D5A⟩, ⟨0x04, 0, 0⟩, 1, 0x04⟩ := by decide
theorem test_update_two_words :
    (answer (exec (.update 5 ⟨0x03, 0x04, 0x05, 0x06, 0x07, 0, 0, 0⟩) (mk .active regs07 ⟨0, 0x01, 0x02⟩ 3 0xFC))).map
      (·.hash) = some ⟨⟨0x42C6EFBB, 0x5C9B3F01, 0x778559D0, 0x6D0ED0F9⟩, ⟨0, 0, 0⟩, 0, 0x04⟩ := by decide

/-! ## FINALIZE (P1, P3, P4) -/

theorem test_finalize_empty : answer (exec .finalize keyed07) = some { done07 with rsp := some 0x5B9F35A900 } := by decide
theorem test_finalize_three_pending :
    (answer (exec .finalize (mk .active ⟨0x90575E2F, 0x13843061, 0x5A60F459, 0x26A23D0D⟩ ⟨0x0C, 0x0D, 0x0E⟩ 3 0x0C))).map
      (fun t => (t.hash, t.rsp, digestOut t, status t)) =
    some (⟨⟨0xBA540CD1, 0x3C5CE0C2, 0x07FCCAE1, 0xAB771EB6⟩, ⟨0, 0, 0⟩, 0, 0x0C⟩, some 0x972BFE7400,
      0x972BFE74, 0x02) := by decide

/-! ## Rejections (section 7, P4) and STATUS (section 8) -/

theorem test_update_in_idle : (answer (exec (.update 9 key07) State.reset)).map (fun t => (t.rsp, t.err, status t)) =
    some (some 0x0000000003, 3, 0x0C) := by decide
theorem test_update_nine_in_active : (answer (exec (.update 9 key07) keyed07)).map (fun t => (t.rsp, t.err, status t)) =
    some (some 0x0000000004, 4, 0x11) := by decide
theorem test_finalize_in_done :
    (answer (exec .finalize done07)).map (fun t => (t.rsp, t.err, status t, digestOut t)) =
    some (some 0x0000000002, 2, 0x0A, 0x5B9F35A9) := by decide
theorem test_first_rejection_is_kept : (answer (exec (.init 7 key07) { State.reset with err := 3 })).map
    (fun t => (t.rsp, t.err)) = some (some 0x0000000001, 3) := by decide

/-! ## The step, and the first command after reset -/

theorem test_step_first_command : (answer (step (State.reset.withFetchWord 80 0x07060504030201000801))).map
    (fun t => (t.hash.v, t.phase, t.port, t.rsp)) = some (regs07, .active, [], some 0x0000000000) := by decide
theorem test_step_reserved : (answer (step (keyed07.withFetchWord 80 0xFFFFFFFFFFFFFFFFFFFF))).map
    (fun t => (t.hash, t.phase, t.err, t.rsp)) = some (keyed07.hash, .active, 5, some 0x0000000005) := by decide
theorem test_step_nothing : (answer (step { done07 with err := 4 })).map
    (fun t => (t.hash, t.phase, t.err, t.rsp)) = some (done07.hash, .done, 4, some 0x0000000000) := by decide
theorem test_step_reset : (answer (step { done07 with err := 4, port := [.reset, .reset] })).map
    (fun t => (t.phase, t.err, t.port, status t, digestOut t)) = some (.idle, 0, [.reset], 0x00, 0) := by decide

/-! ## The one-piece digest (sections 2, 6.2, 6.3) and the pseudo-commands -/

theorem test_digest_of_five_bytes : hsh32 key07 [0, 1, 2, 3, 4] = 0x69B6FAC5 := by decide
theorem test_digest_of_eight_bytes : hsh32 key07 [0, 1, 2, 3, 4, 5, 6, 7] = 0x8F84B8D0 := by decide
theorem test_digest_of_abc : hsh32 ⟨0x00, 0x11, 0x22, 0x33, 0x44, 0x55, 0x66, 0x77⟩ [0x61, 0x62, 0x63] = 0x77273BC9 := by
  decide
theorem test_hash_commands : hashCommands [0, 1, 2, 3, 4, 5, 6, 7, 8] [0, 1, 2, 3, 4, 5, 6, 7, 8] =
    [.init 9 key07, .update 8 key07, .update 1 ⟨8, 0, 0, 0, 0, 0, 0, 0⟩, .finalize] := by decide
theorem test_listing : listingWord 0x00000000006362610302 = "UPDATE 61 62 63" ∧
    listingWord 0x07060504030201000902 = "UPDATE len=9 00 01 02 03 04 05 06 07" ∧
    listingWord 0x00000000000000000004 = ".cw 00000000000000000004" := by decide

/-! ## Witnesses for the hypotheses of the statements -/

theorem witness_RotateLeftMovesBits : (1 ≤ 1 ∧ 1 ≤ 31 ∧ 0 < 32) ∧ (1 ≤ 31 ∧ 31 ≤ 31 ∧ 31 < 32) := by decide

theorem witness_EncodeOfDecodeKeepsUsedBits :
    decode 0x07060504030201000801 = .instr (.init 8 key07) ∧ opField 0x07060504030201000801 = 0x01 ∧
    decode 0x07060504030201000902 = .instr (.update 9 key07) ∧ opField 0x07060504030201000902 = 0x02 := by decide

theorem witness_OpcodeMapByMaskAndMatch :
    (0xFFFFFFFFFFFFFFFFFF00#80 &&& 0xFF = 0x00) ∧ (0x07060504030201000801#80 &&& 0xFF = 0x01) ∧
    (0x00000000006362610302#80 &&& 0xFF = 0x02) ∧ (0x00000000000000000003#80 &&& 0xFF = 0x03) ∧
    (0x04 ≤ 0x00000000000000000004#80 &&& 0xFF) ∧ (0x04 ≤ 0xFFFFFFFFFFFFFFFFFFFF#80 &&& 0xFF) := by decide

theorem witness_LanesAndKeyWordsAreSlicesOfTheWord : 0 < 8 ∧ 7 < 8 := by decide

theorem witness_NopOnlyResponds : opField 0xFFEEDDCCBBAA99887700 = 0x00 := by decide

theorem witness_InitLoadsKeyedStateOrRejects :
    8 ≤ (8 : Byte).toNat ∧ 8 ≤ (255 : Byte).toNat ∧ (7 : Byte).toNat < 8 ∧ (0 : Byte).toNat < 8 := by decide

theorem witness_InitErasesEarlierState : 8 ≤ (8 : Byte).toNat ∧ 8 ≤ (255 : Byte).toNat := by decide

theorem witness_UpdateAbsorbsLanesOrRejects :
    State.reset.phase = .idle ∧ done07.phase = .done ∧
    (keyed07.phase = .active ∧ 8 < (9 : Byte).toNat ∧ 8 < (255 : Byte).toNat) ∧
    (keyed07.phase = .active ∧ (0 : Byte).toNat ≤ 8 ∧ (8 : Byte).toNat ≤ 8) := by decide

theorem witness_UpdateClosedForm :
    (mk .active regs07 ⟨1, 2, 3⟩ 3 0xFC).phase = .active ∧ (8 : Byte).toNat ≤ 8 ∧
    BufClean (mk .active regs07 ⟨1, 2, 3⟩ 3 0xFC).hash := by decide

theorem witness_UpdateChunkInvariance :
    keyed07.phase = .active ∧
    (∀ i ∈ [Instr.update 2 key07, .update 3 ⟨2, 3, 4, 0, 0, 0, 0, 0⟩], isLegalUpdate i = true) ∧
    (∀ i ∈ [Instr.update 5 key07], isLegalUpdate i = true) ∧
    streamOf [Instr.update 2 key07, .update 3 ⟨2, 3, 4, 0, 0, 0, 0, 0⟩] = streamOf [Instr.update 5 key07] := by decide

theorem witness_PartialWordStaysPending :
    (mk .active regs07 ⟨1, 0, 0⟩ 1 0).phase = .active ∧
    (mk .active regs07 ⟨1, 0, 0⟩ 1 0).hash.fill.toNat + (2 : Byte).toNat < 4 := by decide

theorem witness_PositionCountsTheStream : 8 ≤ (8 : Byte).toNat ∧
    (∀ i ∈ [Instr.update 8 key07, .nop, .update 0 key07], isLegalUpdate i = true ∨ i = .nop) := by decide

theorem witness_LengthByteIsTotalPlusFill : TotalAligned (mk .active regs07 ⟨1, 2, 3⟩ 3 0xFC).hash := by decide

theorem witness_FinalWordByFill :
    BufClean ⟨regs07, ⟨0, 0, 0⟩, 0, 0⟩ ∧ BufClean ⟨regs07, ⟨9, 0, 0⟩, 1, 0⟩ ∧
    BufClean ⟨regs07, ⟨9, 8, 0⟩, 2, 0⟩ ∧ BufClean ⟨regs07, ⟨9, 8, 7⟩, 3, 0⟩ := by decide

theorem witness_FinalizeDeliversDigestOrRejects :
    State.reset.phase = .idle ∧ done07.phase = .done ∧ keyed07.phase = .active := by decide

theorem witness_FrameOfEveryCommand :
    exec .nop keyed07 = .next (respondOk 0 keyed07) ∧
    (exec (.update 9 key07) keyed07 = .next (reject .badLength keyed07) ∧ Rejected (reject .badLength keyed07)) ∧
    (exec (.update 0 key07) keyed07 = .next (respondOk 0 keyed07) ∧ Accepted (respondOk 0 keyed07)) ∧
    (exec .finalize keyed07 = .next (respondOk (digestWord (finalizeHash keyed07.hash).v)
        { keyed07 with hash := finalizeHash keyed07.hash, phase := .done }) ∧
      Accepted (respondOk (digestWord (finalizeHash keyed07.hash).v)
        { keyed07 with hash := finalizeHash keyed07.hash, phase := .done })) :=
  ⟨rfl, ⟨rfl, by decide⟩, ⟨rfl, by decide⟩, ⟨rfl, by decide⟩⟩

theorem witness_WritersOfTheHashRegisters :
    (answer (execDecoded (.instr (.update 4 key07)) keyed07)).map (fun t => decide (t.hash.v ≠ keyed07.hash.v)) =
    some true := by decide

theorem witness_IgnoredFieldsChangeNothing :
    (opField 0xAA00000000000000FF00 = opField 0x0 ∧ opField 0xAA00000000000000FF00 = 0x00) ∧
    (opField 0xAA00000000000000FF03 = opField 0x3 ∧ opField 0xAA00000000000000FF03 = 0x03) ∧
    (opField 0xAA00000000000000FF04 = opField 0x4 ∧ 0x04 ≤ opField 0xAA00000000000000FF04) ∧
    (∀ i, i < (2 : Byte).toNat → (laneList key07)[i]? = (laneList ⟨0, 1, 9, 9, 9, 9, 9, 9⟩)[i]?) ∧
    (7 : Byte).toNat < 8 ∧
    (8 ≤ (8 : Byte).toNat ∧ (answer (exec (.init 8 key07) done07)).isSome = true ∧
      (answer (exec (.init 8 key07) done07)).map (·.hash) = (answer (exec (.init 8 key07) done07)).map (·.hash)) := by
  decide

theorem witness_RejectionChangesOnlyErr :
    execDecoded (.reserved 0x04) keyed07 = .next (reject .illegalCommand keyed07) ∧
    Rejected (reject .illegalCommand keyed07) := ⟨rfl, by decide⟩

theorem witness_ErrIsStickyAndGatesNothing :
    (execDecoded (.instr .nop) keyed07 = .next (respondOk 0 keyed07) ∧ Accepted (respondOk 0 keyed07)) ∧
    (execDecoded (.reserved 0x04) keyed07 = .next (illegalCommand keyed07) ∧ Rejected (illegalCommand keyed07) ∧
      keyed07.err = 0) ∧
    (execDecoded (.reserved 0x04) { keyed07 with err := 1 } = .next (illegalCommand { keyed07 with err := 1 }) ∧
      Rejected (illegalCommand { keyed07 with err := 1 }) ∧ ({ keyed07 with err := 1 } : State).err ≠ 0) :=
  ⟨⟨rfl, by decide⟩, ⟨rfl, by decide, by decide⟩, ⟨rfl, by decide, by decide⟩⟩

theorem witness_LegalOperandsAreAcceptedInActive : keyed07.phase = .active := by decide

theorem witness_StatusAndDigestOutputs :
    done07.phase = .done ∧ step done07 = .next (holdState done07) ∧ (holdState done07).phase = .done :=
  ⟨rfl, rfl, rfl⟩

theorem witness_StepRunsTheDecodedCommand :
    (present 0x07060504030201000801 State.reset).port = .command 0x07060504030201000801 :: [] ∧
    decode 0x07060504030201000801 = .instr (.init 8 key07) := by decide

theorem witness_StepRejectsReservedOpcodes :
    (present 0xFF State.reset).port = .command 0xFF :: [] ∧ 0x04 ≤ opField 0xFF := by decide

theorem witness_StepTakesReset : ({ done07 with port := [.reset] } : State).port = .reset :: [] := by decide

theorem witness_StepHoldsWithNothingPresented : State.reset.port = [] ∧
    ((present 0xFFEEDDCCBBAA99887700 done07).port = .command 0xFFEEDDCCBBAA99887700 :: [] ∧
      opField 0xFFEEDDCCBBAA99887700 = 0x00) := by decide

theorem witness_HostGetsBackTheCodesOfItsInteraction :
    (step keyed07 = .next (holdState keyed07) ∧ keyed07.port = []) ∧
    (step (present 0x00 keyed07) = .next (respondOk 0 keyed07) ∧ opField 0x00 = 0x00) ∧
    (step (present 0x01 keyed07) = .next (reject .invalidKeyLength keyed07) ∧ opField 0x01 = 0x01) ∧
    (step (present 0x02 keyed07) = .next (respondOk 0 keyed07) ∧ opField 0x02 = 0x02) ∧
    (step (present 0x03 done07) = .next (reject .illegalReuse done07) ∧ opField 0x03 = 0x03) :=
  ⟨⟨rfl, rfl⟩, ⟨rfl, by decide⟩, ⟨rfl, by decide⟩, ⟨rfl, by decide⟩, ⟨rfl, by decide⟩⟩

theorem witness_EveryStepCompletes : 8 ≤ (8 : Byte).toNat := by decide

theorem witness_LifecycleTable :
    (step keyed07 = .next (holdState keyed07) ∧ keyed07.port = []) ∧
    (step { keyed07 with port := [.reset] } = .next (applyReset keyed07) ∧ keyed07.phase ≠ .idle ∧
      (applyReset keyed07).phase = .idle) ∧
    (step (present 0x00 keyed07) = .next (respondOk 0 keyed07) ∧ decode 0x00 = .instr .nop) ∧
    (step (present 0x04 keyed07) = .next (illegalCommand keyed07) ∧ decode 0x04 = .reserved 0x04) :=
  ⟨⟨rfl, rfl⟩, ⟨rfl, by decide, rfl⟩, ⟨rfl, by decide⟩, ⟨rfl, by decide⟩⟩

theorem witness_EveryStepKeepsTheStateInvariant : Inv done07 ∧ step done07 = .next (holdState done07) :=
  ⟨by decide, rfl⟩

theorem witness_UnspecifiedContentsAreInvisible :
    SameButUnspecified State.reset { State.reset with hash := done07.hash } ∧
    State.reset ≠ { State.reset with hash := done07.hash } ∧ SameButUnspecified keyed07 keyed07 := by decide

theorem witness_ZeroErrMeansAllAccepted :
    (∀ i ∈ [Instr.nop, .update 0 key07], isInit i = false) ∧
    execAll [.nop, .update 0 key07] keyed07 = .next (respondOk 0 keyed07) ∧ (respondOk 0 keyed07).err = 0 :=
  ⟨by decide, rfl, rfl⟩

theorem witness_StreamedDigestIsTheOneShotDigest : 8 ≤ (8 : Byte).toNat ∧
    (∀ i ∈ [Instr.update 3 key07, .nop, .update 5 key07], isLegalUpdate i = true ∨ i = .nop) := by decide

theorem witness_HashCommandsDeliverTheDigest :
    8 ≤ [0x00#8, 0x01#8, 0x02#8, 0x03#8, 0x04#8, 0x05#8, 0x06#8, 0x07#8].length ∧
    ({ State.reset with port := asInputs (hashCommands [0, 1, 2, 3, 4, 5, 6, 7] [9]) } : State).port =
      asInputs (hashCommands [0, 1, 2, 3, 4, 5, 6, 7] [9]) ++ [] := ⟨by decide, rfl⟩

end Sys2Proof.Tests
end

/-! ## The primitives, and the digest of a streamed message

Proofs of the statements of spec/00_scope.md: rotation and byte order, and the refinement of the one-piece digest by the
buffered stream. -/

namespace Sys2Proof.Machine

/-! ### Rotation and byte order (R9, R10, R11) -/

/-- A rotation amount below 32 takes bit `i` to bit `(i+n) mod 32` (R9). -/
theorem getLsbD_rotl32 (x : Word) (n i : Nat) (hn : n < 32) (hi : i < 32) :
    (rotl32 x n).getLsbD ((i + n) % 32) = x.getLsbD i := by
  rw [rotl32_eq_rotateLeft x n hn, BitVec.getLsbD_rotateLeft, Nat.mod_eq_of_lt hn]
  rcases Nat.lt_or_ge (i + n) 32 with h | h
  · simp [Nat.mod_eq_of_lt h, h]
  · rw [show (i + n) % 32 = i + n - 32 by omega, show 32 - n + (i + n - 32) = i by omega]
    simp [show i + n - 32 < n by omega]

/-- Settles O1: the formula is the definition's own, the bit movement that of `getLsbD_rotl32`. -/
theorem rotateLeftMovesBits : Obligations.RotateLeftMovesBits :=
  ⟨fun x n _ hn => ⟨rfl, fun i hi => getLsbD_rotl32 x n i (by omega) hi⟩, by decide⟩

/-- `bytes_le` undoes `le32` (R11). -/
theorem bytesLe_le32 (b0 b1 b2 b3 : Byte) : bytesLe (le32 b0 b1 b2 b3) = [b0, b1, b2, b3] := by
  have byte0 : (b3 ++ b2 ++ b1 ++ b0).extractLsb' 0 8 = b0 := BitVec.extractLsb'_append_eq_right
  have byte1 : (b3 ++ b2 ++ b1 ++ b0).extractLsb' 8 8 = b1 :=
    (BitVec.extractLsb'_append_eq_of_le (by decide)).trans BitVec.extractLsb'_append_eq_right
  have byte2 : (b3 ++ b2 ++ b1 ++ b0).extractLsb' 16 8 = b2 :=
    (BitVec.extractLsb'_append_eq_of_le (by decide)).trans <|
      (BitVec.extractLsb'_append_eq_of_le (by decide)).trans BitVec.extractLsb'_append_eq_right
  have byte3 : (b3 ++ b2 ++ b1 ++ b0).extractLsb' 24 8 = b3 :=
    (BitVec.extractLsb'_append_eq_of_le (by decide)).trans <|
      (BitVec.extractLsb'_append_eq_of_le (by decide)).trans BitVec.extractLsb'_append_eq_left
  rw [le32_eq_append, bytesLe, byte0, byte1, byte2, byte3]

/-- `le32` undoes `bytes_le` (R11). -/
theorem le32_extractLsb' (w : Word) :
    le32 (w.extractLsb' 0 8) (w.extractLsb' 8 8) (w.extractLsb' 16 8) (w.extractLsb' 24 8) = w := by
  rw [le32_eq_append,
    BitVec.extractLsb'_append_extractLsb'_eq_extractLsb' (by rfl),
    BitVec.extractLsb'_append_extractLsb'_eq_extractLsb' (by rfl),
    BitVec.extractLsb'_append_extractLsb'_eq_extractLsb' (by rfl)]
  exact BitVec.extractLsb'_eq_self

/-- Settles O2: the packings are the definitions' own, and each undoes the other. -/
theorem littleEndianPackAndUnpack : Obligations.LittleEndianPackAndUnpack :=
  ⟨fun b0 b1 b2 b3 => ⟨rfl, bytesLe_le32 b0 b1 b2 b3⟩, fun w => ⟨rfl, le32_extractLsb' w⟩, by decide⟩

/-! ### The final word of a clean buffer (R91, R92) -/

/-- Or-ing a word in under a condition is or-ing it in always, when the word is zero outside the condition. -/
theorem ite_or_eq_or (p : Prop) [Decidable p] (b w : Word) (hw : ¬ p → w = 0) :
    (if p then b ||| w else b) = b ||| w := by
  split
  case isTrue => rfl
  case isFalse hp => simp [hw hp]

/-- With every slot at `fill` and above zero (V2), the final word packs the three slots under the length byte, whatever
`fill` is (R92). -/
theorem finalWord_eq_le32 (h : HashState) (hb : BufClean h) :
    finalWord h = le32 h.buf.slot0 h.buf.slot1 h.buf.slot2 (lengthByte h) := by
  obtain ⟨h0, h1, h2⟩ := hb
  have clean0 : ¬ 1#2 ≤ h.fill → h.buf.slot0.setWidth 32 = (0 : Word) := fun hf => by
    simp [h0 (by bv_omega)]
  have clean1 : ¬ 2#2 ≤ h.fill → h.buf.slot1.setWidth 32 <<< 8 = (0 : Word) := fun hf => by
    simp [h1 (by bv_omega)]
  have clean2 : ¬ 3#2 ≤ h.fill → h.buf.slot2.setWidth 32 <<< 16 = (0 : Word) := fun hf => by
    simp [h2 (by bv_omega)]
  simp only [finalWord, ite_or_eq_or _ _ _ clean0, ite_or_eq_or _ _ _ clean1, ite_or_eq_or _ _ _ clean2]
  rw [BitVec.or_assoc, BitVec.or_assoc, BitVec.or_comm, ← BitVec.or_assoc]
  rfl

/-! ### Messages cut at the word boundaries (R38) -/

theorem splitWords_snd_length_lt (msg : List Byte) : (splitWords msg).2.length < 4 := by
  induction msg using splitWords.induct with
  | case1 b0 b1 b2 b3 rest ih => simpa [splitWords] using ih
  | case2 tail short =>
    rcases tail with _ | ⟨b0, _ | ⟨b1, _ | ⟨b2, _ | ⟨b3, rest⟩⟩⟩⟩
    case cons.cons.cons.cons => exact absurd rfl (short b0 b1 b2 b3 rest)
    all_goals simp [splitWords]

theorem length_eq_splitWords (msg : List Byte) :
    msg.length = 4 * (splitWords msg).1.length + (splitWords msg).2.length := by
  induction msg using splitWords.induct with
  | case1 b0 b1 b2 b3 rest ih => simp [splitWords]; omega
  | case2 tail short => simp [splitWords.eq_2 tail short]

/-! ### Absorbing a message from an empty buffer (R79, R83) -/

/-- The hashing state with registers `v`, the bytes `tail` pending and zero in the slots above them (R19, V2). -/
def tailState (v : Regs) (tail : List Byte) (total : Byte) : HashState where
  v := v
  buf := ⟨tail.getD 0 0, tail.getD 1 0, tail.getD 2 0⟩
  fill := BitVec.ofNat 2 tail.length
  total := total

section
variable (v : Regs) (tail : List Byte) (total : Byte)

theorem bufClean_tailState (h : tail.length < 4) : BufClean (tailState v tail total) := by
  have slot_zero (i : Nat) (hf : BitVec.ofNat 2 tail.length ≤ BitVec.ofNat 2 i) (hi : i < 4) : tail.getD i 0 = 0 := by
    rw [BitVec.le_def, BitVec.toNat_ofNat, BitVec.toNat_ofNat] at hf
    exact List.getD_eq_default _ _ (by omega)
  exact ⟨fun hf => slot_zero 0 (BitVec.le_of_eq hf) (by decide), fun hf => slot_zero 1 hf (by decide),
    fun hf => slot_zero 2 hf (by decide)⟩

theorem lengthByte_tailState (h : tail.length < 4) :
    lengthByte (tailState v tail total) = total + BitVec.ofNat 8 tail.length := by
  rw [lengthByte, tailState, BitVec.setWidth_ofNat_of_le_of_lt (by decide) h]

theorem absorbAll_short (h : tail.length < 4) : absorbAll (tailState v [] total) tail = tailState v tail total := by
  rcases tail with _ | ⟨b0, _ | ⟨b1, _ | ⟨b2, _ | ⟨b3, rest⟩⟩⟩⟩
  case cons.cons.cons.cons => simp at h; omega
  all_goals simp [absorb_pending, tailState, setSlot]

theorem absorbAll_word (b0 b1 b2 b3 : Byte) :
    absorbAll (tailState v [] total) [b0, b1, b2, b3] = tailState (compress (le32 b0 b1 b2 b3) v) [] (total + 4) := by
  have three := absorbAll_short v [b0, b1, b2] total (by decide : 3 < 4)
  calc absorbAll (tailState v [] total) [b0, b1, b2, b3]
      = absorb (absorbAll (tailState v [] total) [b0, b1, b2]) b3 := rfl
    _ = absorb (tailState v [b0, b1, b2] total) b3 := by rw [three]
    _ = tailState (compress (le32 b0 b1 b2 b3) v) [] (total + 4) := absorb_full _ _ rfl

end

/-- From an empty buffer, absorbing a message compresses its complete words and leaves the rest pending (R83). -/
theorem absorbAll_eq_tailState (msg : List Byte) (v : Regs) (total : Byte) :
    absorbAll (tailState v [] total) msg = tailState (compressAll v (splitWords msg).1) (splitWords msg).2
      (total + BitVec.ofNat 8 (4 * (splitWords msg).1.length)) := by
  induction msg using splitWords.induct generalizing v total with
  | case1 b0 b1 b2 b3 rest ih =>
    have htotal (n : Nat) : total + 4 + BitVec.ofNat 8 (4 * n) = total + BitVec.ofNat 8 (4 * (n + 1)) := by
      rw [BitVec.add_assoc, Nat.mul_succ, Nat.add_comm, BitVec.ofNat_add]
      rfl
    rw [show b0 :: b1 :: b2 :: b3 :: rest = [b0, b1, b2, b3] ++ rest from rfl, absorbAll_append, absorbAll_word, ih,
      htotal]
    rfl
  | case2 tail short =>
    have h := splitWords_snd_length_lt tail
    rw [splitWords.eq_2 tail short] at h ⊢
    simpa [compressAll] using absorbAll_short v tail total h

/-- The state of `absorbAll_eq_tailState` after an accepted INIT, which leaves nothing pending and `total` zero (R75). -/
theorem absorbAll_keyedHash (l : Lanes) (msg : List Byte) :
    absorbAll (keyedHash l) msg =
      tailState (compressAll (initRegs (keyWord0 l) (keyWord1 l)) (splitWords msg).1) (splitWords msg).2
        (BitVec.ofNat 8 (4 * (splitWords msg).1.length)) := by
  have h := absorbAll_eq_tailState msg (initRegs (keyWord0 l) (keyWord1 l)) 0#8
  rwa [BitVec.zero_add] at h

/-- V4: after an accepted INIT the length byte counts the stream modulo 256 (R27, R91). -/
theorem lengthByte_absorbAll_keyedHash (l : Lanes) (msg : List Byte) :
    lengthByte (absorbAll (keyedHash l) msg) = BitVec.ofNat 8 msg.length := by
  rw [absorbAll_keyedHash, lengthByte_tailState _ _ _ (splitWords_snd_length_lt msg), ← BitVec.ofNat_add,
    ← length_eq_splitWords]

/-- FINALIZE after the whole stream delivers the digest of the message in one piece (R97). -/
theorem digestWord_finalizeHash_absorbAll (l : Lanes) (msg : List Byte) :
    digestWord (finalizeHash (absorbAll (keyedHash l) msg)).v = hsh32 l msg := by
  have clean : BufClean (absorbAll (keyedHash l) msg) := by
    rw [absorbAll_keyedHash]
    exact bufClean_tailState _ _ _ (splitWords_snd_length_lt msg)
  rw [finalizeHash, finalWord_eq_le32 _ clean, lengthByte_absorbAll_keyedHash, absorbAll_keyedHash]
  rfl

/-! ### Sequences of commands (R43) -/

theorem execAll_cons_of_next {i : Instr} {s t : State} (h : exec i s = .next t) (rest : List Instr) :
    execAll (i :: rest) s = execAll rest t := by
  simp [execAll, h]

theorem execAll_append_of_next {xs : List Instr} {s t : State} (h : execAll xs s = .next t) (ys : List Instr) :
    execAll (xs ++ ys) s = execAll ys t := by
  induction xs generalizing s with
  | nil =>
    obtain rfl : s = t := by simpa [execAll] using h
    rfl
  | cons i xs ih =>
    rcases hi : exec i s with s' | f | r
    · rw [execAll_cons_of_next hi] at h
      rw [List.cons_append, execAll_cons_of_next hi, ih h]
    · simp [execAll, hi] at h
    · simp [execAll, hi] at h

@[simp] theorem streamOf_cons (i : Instr) (rest : List Instr) : streamOf (i :: rest) = streamBytes i ++ streamOf rest :=
  List.flatMap_cons

/-- In ACTIVE a legal UPDATE or a NOP absorbs the bytes it brings to the stream, and responds `OK(0)` (R82, R99). -/
theorem exec_stream_command (i : Instr) (s : State) (hi : isLegalUpdate i = true ∨ i = .nop) (hp : s.phase = .active) :
    exec i s = .next (respondOk 0 { s with hash := absorbAll s.hash (streamBytes i) }) := by
  rcases hi with hi | rfl
  · cases i with
    | update len l => exact execUpdate_accepted len l s hp (by simpa [isLegalUpdate] using hi)
    | nop => simp [isLegalUpdate] at hi
    | init len l => simp [isLegalUpdate] at hi
    | finalize => simp [isLegalUpdate] at hi
  · rfl

/-- In ACTIVE, after an `OK(0)`, legal UPDATEs with NOPs among them absorb their stream and change nothing else
(R84). -/
theorem execAll_stream (cmds : List Instr) (s : State) (hc : ∀ i ∈ cmds, isLegalUpdate i = true ∨ i = .nop)
    (hp : s.phase = .active) :
    execAll cmds (respondOk 0 s) = .next (respondOk 0 { s with hash := absorbAll s.hash (streamOf cmds) }) := by
  induction cmds generalizing s with
  | nil => rfl
  | cons i rest ih =>
    obtain ⟨hi, hrest⟩ := List.forall_mem_cons.mp hc
    rw [execAll_cons_of_next (exec_stream_command i (respondOk 0 s) hi hp), streamOf_cons, absorbAll_append]
    exact ih { s with hash := absorbAll s.hash (streamBytes i) } hrest hp

/-- An accepted INIT, a stream of legal UPDATEs and NOPs, and a FINALIZE leave the state that FINALIZE makes of the
absorbed stream, and respond with the digest of the message in one piece (R97, R103). -/
theorem execAll_message (len : Byte) (l : Lanes) (cmds : List Instr) (s : State) (hlen : 8 ≤ len.toNat)
    (hc : ∀ i ∈ cmds, isLegalUpdate i = true ∨ i = .nop) :
    execAll (.init len l :: (cmds ++ [.finalize])) s = .next (respondOk (hsh32 l (streamOf cmds))
      { s with hash := finalizeHash (absorbAll (keyedHash l) (streamOf cmds)), phase := .done, err := 0 }) := by
  rw [execAll_cons_of_next (i := .init len l) (execInit_accepted len l s hlen),
    execAll_append_of_next (execAll_stream cmds _ hc rfl),
    execAll_cons_of_next (i := .finalize) (execFinalize_accepted _ rfl), ← digestWord_finalizeHash_absorbAll]
  rfl

/-- Settles O45: the digest in the response is that of `execAll_message`, and the registers that FINALIZE leaves carry
the same word. -/
theorem streamedDigestIsTheOneShotDigest : Obligations.StreamedDigestIsTheOneShotDigest :=
  fun len l cmds s hlen hc =>
    ⟨_, execAll_message len l cmds s hlen hc, rfl, digestWord_finalizeHash_absorbAll l (streamOf cmds), rfl, rfl⟩

end Sys2Proof.Machine

/-! ## The state: invariants, frames, `err`, the outputs

Proofs of the statements of spec/10_state.md: what every step keeps, what each command leaves unchanged and may write,
and what the outputs show. -/

namespace Sys2Proof.Machine

/-! ### What a step answers, and which answers are rejections (R59, R60, R110, R127) -/

theorem accepted_respondOk (d : Word) (s : State) : Accepted (respondOk d s) := by simp

theorem not_rejected_respondOk (d : Word) (s : State) : ¬ Rejected (respondOk d s) := by simp

theorem not_accepted_reject (c : Cause) (s : State) : ¬ Accepted (reject c s) := by
  simp [Cause.setWidth_code_ne_zero]

theorem respondOk_ne_reject (d : Word) (c : Cause) (s t : State) : respondOk d s ≠ reject c t :=
  fun h => not_accepted_reject c t (h ▸ accepted_respondOk d s)

/-- The next states of a decoded command word, as `execDecoded_cases` lists them; a NOP is never rejected. -/
theorem next_of_execDecoded {d : Decoded} {s t : State} (h : execDecoded d s = .next t) :
    (d = .instr .nop ∧ t = respondOk 0 s) ∨
    (∃ len l, d = .instr (.init len l) ∧ 8 ≤ len.toNat ∧
      t = respondOk 0 { s with hash := keyedHash l, phase := .active, err := 0 }) ∨
    (∃ len l, d = .instr (.update len l) ∧ s.phase = .active ∧ len.toNat ≤ 8 ∧
      t = respondOk 0 { s with hash := absorbAll s.hash (payload len l) }) ∨
    (d = .instr .finalize ∧ s.phase = .active ∧
      t = respondOk (digestWord (finalizeHash s.hash).v) { s with hash := finalizeHash s.hash, phase := .done }) ∨
    (∃ c, d ≠ .instr .nop ∧ t = reject c s) := by
  have answer {u : State} (hu : execDecoded d s = .next u) : t = u := Host.Outcome.next.inj (h.symm.trans hu)
  rcases execDecoded_cases d s with ⟨hd, hu⟩ | ⟨len, l, hd, hlen, hu⟩ | ⟨len, l, hd, hp, hlen, hu⟩ | ⟨hd, hp, hu⟩ |
    ⟨c, hu⟩
  · exact .inl ⟨hd, answer hu⟩
  · exact .inr (.inl ⟨len, l, hd, hlen, answer hu⟩)
  · exact .inr (.inr (.inl ⟨len, l, hd, hp, hlen, answer hu⟩))
  · exact .inr (.inr (.inr (.inl ⟨hd, hp, answer hu⟩)))
  · refine .inr (.inr (.inr (.inr ⟨c, ?_, answer hu⟩)))
    rintro rfl
    exact respondOk_ne_reject 0 c s s (Host.Outcome.next.inj hu)

theorem phase_cases (p : Phase) : p = .idle ∨ p = .active ∨ p = .done := by cases p <;> simp

/-- The phase and the operands alone settle whether a decoded command word is accepted and with which cause it is
rejected: in two states of one phase it does the same to both (R112). -/
theorem execDecoded_cases_of_phase_eq (d : Decoded) {s t : State} (hp : s.phase = t.phase) :
    (∃ c, execDecoded d s = .next (reject c s) ∧ execDecoded d t = .next (reject c t)) ∨
    (execDecoded d s = .next (respondOk 0 s) ∧ execDecoded d t = .next (respondOk 0 t)) ∨
    (∃ l, execDecoded d s = .next (respondOk 0 { s with hash := keyedHash l, phase := .active, err := 0 }) ∧
      execDecoded d t = .next (respondOk 0 { t with hash := keyedHash l, phase := .active, err := 0 })) ∨
    (s.phase = .active ∧ ∃ bytes,
      execDecoded d s = .next (respondOk 0 { s with hash := absorbAll s.hash bytes }) ∧
      execDecoded d t = .next (respondOk 0 { t with hash := absorbAll t.hash bytes })) ∨
    (s.phase = .active ∧
      execDecoded d s = .next (respondOk (digestWord (finalizeHash s.hash).v)
        { s with hash := finalizeHash s.hash, phase := .done }) ∧
      execDecoded d t = .next (respondOk (digestWord (finalizeHash t.hash).v)
        { t with hash := finalizeHash t.hash, phase := .done })) := by
  rcases d with (_ | ⟨len, l⟩ | ⟨len, l⟩ | _) | op
  case instr.nop => exact .inr (.inl ⟨rfl, rfl⟩)
  case instr.init =>
    rcases Nat.lt_or_ge len.toNat 8 with h | h
    · exact .inl ⟨_, execInit_rejected len l s h, execInit_rejected len l t h⟩
    · exact .inr (.inr (.inl ⟨l, execInit_accepted len l s h, execInit_accepted len l t h⟩))
  case instr.update =>
    rcases phase_cases s.phase with hs | hs | hs <;> have ht := hp.symm.trans hs
    · exact .inl ⟨_, execUpdate_idle len l s hs, execUpdate_idle len l t ht⟩
    · rcases Nat.lt_or_ge 8 len.toNat with h | h
      · exact .inl ⟨_, execUpdate_badLength len l s hs h, execUpdate_badLength len l t ht h⟩
      · exact .inr (.inr (.inr (.inl
          ⟨hs, payload len l, execUpdate_accepted len l s hs h, execUpdate_accepted len l t ht h⟩)))
    · exact .inl ⟨_, execUpdate_done len l s hs, execUpdate_done len l t ht⟩
  case instr.finalize =>
    rcases phase_cases s.phase with hs | hs | hs <;> have ht := hp.symm.trans hs
    · exact .inl ⟨_, execFinalize_idle s hs, execFinalize_idle t ht⟩
    · exact .inr (.inr (.inr (.inr ⟨hs, execFinalize_accepted s hs, execFinalize_accepted t ht⟩)))
    · exact .inl ⟨_, execFinalize_done s hs, execFinalize_done t ht⟩
  case reserved => exact .inl ⟨.illegalCommand, rfl, rfl⟩

theorem step_of_port_nil (s : State) (h : s.port = []) : step s = .next (holdState s) := by
  simp [step, fetch_nil s h]

theorem step_of_port_reset (s : State) (rest : List HostInput) (h : s.port = .reset :: rest) :
    step s = .next (applyReset { s with port := rest }) := by
  simp [step, fetch_cons s _ _ h]

theorem step_of_port_command (s : State) (cw : CmdWord) (rest : List HostInput) (h : s.port = .command cw :: rest) :
    step s = execDecoded (decode cw) { s with port := rest } := by
  simp [step, fetch_cons s _ _ h]

/-! ### The invariants (R27) -/

/-- ABSORB keeps the slots at `fill` and above zero (V2). -/
theorem bufClean_absorb (h : HashState) (x : Byte) (hb : BufClean h) : BufClean (absorb h x) := by
  obtain ⟨v, ⟨s0, s1, s2⟩, fill, total⟩ := h
  have fills : ∀ f : BitVec 2, f = 0 ∨ f = 1 ∨ f = 2 ∨ f = 3 := by decide
  obtain ⟨-, h1, h2⟩ := hb
  rcases fills fill with rfl | rfl | rfl | rfl
  · exact ⟨nofun, fun _ => h1 (show 0#2 ≤ 1#2 by decide), fun _ => h2 (show 0#2 ≤ 2#2 by decide)⟩
  · exact ⟨nofun, nofun, fun _ => h2 (show 1#2 ≤ 2#2 by decide)⟩
  · exact ⟨nofun, nofun, nofun⟩
  · exact ⟨fun _ => rfl, fun _ => rfl, fun _ => rfl⟩

/-- ABSORB keeps `total` a multiple of 4 (V3). -/
theorem totalAligned_absorb (h : HashState) (x : Byte) (ht : TotalAligned h) : TotalAligned (absorb h x) := by
  by_cases hf : h.fill = 3
  · rw [absorb_full h x hf]
    have low : (h.total + 4).extractLsb' 0 2 = h.total.extractLsb' 0 2 := by
      apply BitVec.eq_of_toNat_eq
      simp
    exact low.trans ht
  · rw [absorb_pending h x hf]
    exact ht

theorem bufClean_totalAligned_absorbAll (h : HashState) (bytes : List Byte) (hh : BufClean h ∧ TotalAligned h) :
    BufClean (absorbAll h bytes) ∧ TotalAligned (absorbAll h bytes) :=
  List.foldlRecOn (motive := fun g => BufClean g ∧ TotalAligned g) bytes absorb hh
    fun g ⟨hb, ht⟩ x _ => ⟨bufClean_absorb g x hb, totalAligned_absorb g x ht⟩

/-- A rejection keeps the invariants: it writes at most `err`, and a code of at most 5 (V5). -/
theorem inv_reject (c : Cause) (s : State) (hs : Inv s) : Inv (reject c s) := by
  obtain ⟨hhash, hdone, herr⟩ := hs
  refine ⟨hhash, hdone, ?_⟩
  rw [reject_err]
  split
  · exact c.code_le_five
  · exact herr

/-- A decoded command word keeps the invariants. -/
theorem inv_execDecoded {d : Decoded} {s t : State} (hs : Inv s) (h : execDecoded d s = .next t) : Inv t := by
  rcases next_of_execDecoded h with ⟨-, rfl⟩ | ⟨_, l, -, -, rfl⟩ | ⟨len, l, -, hp, -, rfl⟩ | ⟨-, hp, rfl⟩ | ⟨c, -, rfl⟩
  · exact hs
  · exact ⟨fun _ => ⟨⟨fun _ => rfl, fun _ => rfl, fun _ => rfl⟩, rfl⟩, nofun, Nat.zero_le 5⟩
  · obtain ⟨hhash, -, herr⟩ := hs
    have hactive : s.phase ≠ .idle ∧ s.phase ≠ .done := by simp [hp]
    exact ⟨fun _ => bufClean_totalAligned_absorbAll _ _ (hhash hactive.1), fun hd => absurd hd hactive.2, herr⟩
  · obtain ⟨hhash, -, herr⟩ := hs
    have haligned := (hhash (by simp [hp])).2
    exact ⟨fun _ => ⟨⟨fun _ => rfl, fun _ => rfl, fun _ => rfl⟩, haligned⟩, fun _ => ⟨rfl, rfl⟩, herr⟩
  · exact inv_reject c s hs

/-- Settles O41: a step with nothing presented leaves what the invariants speak of, a reset leaves IDLE and no error,
and commands are `inv_execDecoded`. -/
theorem everyStepKeepsTheStateInvariant : Obligations.EveryStepKeepsTheStateInvariant := by
  intro s t hs h
  rcases step_cases s with ⟨-, hstep⟩ | ⟨rest, -, hstep⟩ | ⟨cw, rest, -, hstep⟩ <;> rw [hstep] at h
  · cases h
    exact hs
  · cases h
    exact ⟨fun hp => absurd rfl hp, nofun, by simp⟩
  · exact inv_execDecoded (s := { s with port := rest }) hs h

/-- Settles O42: in IDLE the invariants ask only for `err`, so nothing rests on the contents that the reset state names. -/
theorem resetMeetsTheStateInvariant : Obligations.ResetMeetsTheStateInvariant :=
  ⟨fun hp => absurd rfl hp, nofun, by decide⟩

/-! ### The position in the stream (V4) -/

/-- Settles O22: the stream is absorbed from an empty buffer, where `absorbAll_keyedHash` gives the left-over bytes
pending and the complete words counted. -/
theorem positionCountsTheStream : Obligations.PositionCountsTheStream := by
  intro len l cmds s hlen hc n
  refine ⟨_, (execAll_cons_of_next (i := .init len l) (execInit_accepted len l s hlen) cmds).trans
    (execAll_stream cmds _ hc rfl), rfl, ?_, ?_⟩
  all_goals
    have hn := length_eq_splitWords (streamOf cmds)
    have htail := splitWords_snd_length_lt (streamOf cmds)
    simp [absorbAll_keyedHash, tailState]
    omega

/-! ### Frames (R17, R22, R72, R80, R89, R95, R99, R110) -/

/-- Bytes that complete no word leave `v` and `total` (R85). -/
theorem absorbAll_of_short (bytes : List Byte) (h : HashState) (hf : h.fill.toNat + bytes.length < 4) :
    ∃ b f, absorbAll h bytes = { h with buf := b, fill := f } := by
  induction bytes generalizing h with
  | nil => exact ⟨h.buf, h.fill, rfl⟩
  | cons x xs ih =>
    rw [List.length_cons] at hf
    have hne : h.fill ≠ 3 := fun h3 => by
      simp [h3] at hf
      omega
    have hnext : (h.fill + 1).toNat + xs.length < 4 := by
      rw [BitVec.toNat_add_of_lt (by simp; omega)]
      simp
      omega
    rw [absorbAll_cons, absorb_pending h x hne]
    exact ih { h with buf := setSlot h.buf h.fill x, fill := h.fill + 1 } hnext

/-- Settles O27: of the accepted commands NOP leaves the registers, and so does an UPDATE whose bytes complete no word. -/
theorem writersOfTheHashRegisters : Obligations.WritersOfTheHashRegisters := by
  intro d s t h hv
  rcases next_of_execDecoded h with ⟨-, rfl⟩ | ⟨len, l, rfl, -, rfl⟩ | ⟨len, l, rfl, -, hlen, rfl⟩ | ⟨rfl, -, rfl⟩ |
    ⟨c, -, rfl⟩
  · exact absurd rfl hv
  · exact ⟨accepted_respondOk _ _, .inl ⟨len, l, rfl⟩⟩
  · refine ⟨accepted_respondOk _ _, .inr (.inl ⟨len, l, rfl, ?_⟩)⟩
    by_contra hshort
    rw [Nat.not_le, ← payload_length len l hlen] at hshort
    obtain ⟨b, f, hab⟩ := absorbAll_of_short _ _ hshort
    exact hv (by simp [hab])
  · exact ⟨accepted_respondOk _ _, .inr (.inr rfl)⟩
  · exact absurd rfl hv

/-- Settles O26: in each of the answers of `next_of_execDecoded` the fields named are those of the state before. -/
theorem frameOfEveryCommand : Obligations.FrameOfEveryCommand := by
  intro i s t h
  rcases next_of_execDecoded (d := .instr i) h with ⟨hi, rfl⟩ | ⟨len, l, hi, -, rfl⟩ | ⟨len, l, hi, -, -, rfl⟩ |
    ⟨hi, -, rfl⟩ | ⟨c, hi, rfl⟩
  case inr.inr.inr.inr =>
    have hrej := not_accepted_reject c s
    exact ⟨rfl, rfl, fun _ => ⟨rfl, rfl⟩, fun hnop => absurd (congrArg Decoded.instr hnop) hi,
      fun _ => ⟨rfl, fun ha => absurd ha hrej⟩, fun _ => ⟨rfl, fun ha => absurd ha hrej⟩⟩
  all_goals
    cases hi
    refine ⟨rfl, rfl, fun hr => absurd hr (not_rejected_respondOk _ _), ?_⟩
    simp [finalizeHash]

/-! ### The error register (R24) -/

/-- Settles O31: the writers of `err` are read off the answers of `next_of_execDecoded`; that `err` gates nothing is
`execDecoded_cases_of_phase_eq` for two values of it. -/
theorem errIsStickyAndGatesNothing : Obligations.ErrIsStickyAndGatesNothing := by
  refine ⟨fun d s t h => ?_, fun s => ⟨rfl, rfl⟩, fun d s e => ?_⟩
  · rcases next_of_execDecoded h with ⟨rfl, rfl⟩ | ⟨len, l, rfl, -, rfl⟩ | ⟨len, l, rfl, -, -, rfl⟩ | ⟨rfl, -, rfl⟩ |
      ⟨c, -, rfl⟩
    case inr.inr.inr.inr =>
      have hrej := not_accepted_reject c s
      exact ⟨fun ha => absurd ha hrej, fun ha => absurd ha hrej,
        fun _ h0 => by simpa [h0] using c.code_ne_zero, fun _ h0 => if_neg h0⟩
    all_goals simp
  · rcases execDecoded_cases_of_phase_eq d (s := s) (t := { s with err := e }) rfl with ⟨c, hs, ht⟩ | ⟨hs, ht⟩ |
      ⟨l, hs, ht⟩ | ⟨-, bytes, hs, ht⟩ | ⟨-, hs, ht⟩
    all_goals exact ⟨_, _, hs, ht, rfl⟩

/-! ### The outputs (R25) -/

/-- In DONE a decoded command word leaves the hashing state or leaves DONE: only an accepted INIT writes there. -/
theorem execDecoded_done {d : Decoded} {s t : State} (hs : s.phase = .done) (h : execDecoded d s = .next t) :
    t.hash = s.hash ∨ t.phase = .active := by
  have hactive : s.phase ≠ .active := by simp [hs]
  rcases next_of_execDecoded h with ⟨-, rfl⟩ | ⟨len, l, -, -, rfl⟩ | ⟨len, l, -, hp, -⟩ | ⟨-, hp, -⟩ | ⟨c, -, rfl⟩
  · exact .inl rfl
  · exact .inr rfl
  · exact absurd hp hactive
  · exact absurd hp hactive
  · exact .inl rfl

theorem extractLsb'_status_phase (s : State) : (status s).extractLsb' 0 2 = s.phase.code :=
  BitVec.extractLsb'_append_eq_right

theorem extractLsb'_status_err (s : State) : (status s).extractLsb' 2 3 = s.err :=
  (BitVec.extractLsb'_append_eq_of_le (by decide)).trans BitVec.extractLsb'_append_eq_right

theorem extractLsb'_status_zero (s : State) : (status s).extractLsb' 5 3 = 0 :=
  (BitVec.extractLsb'_append_eq_of_le (by decide)).trans BitVec.extractLsb'_append_eq_left

/-- A step from DONE to DONE leaves the hashing state. -/
theorem step_done_hash {s t : State} (hs : s.phase = .done) (h : step s = .next t) (ht : t.phase = .done) :
    t.hash = s.hash := by
  rcases step_cases s with ⟨-, hstep⟩ | ⟨rest, -, hstep⟩ | ⟨cw, rest, -, hstep⟩ <;> rw [hstep] at h
  · cases h
    rfl
  · cases h
    cases ht
  · rcases execDecoded_done (s := { s with port := rest }) hs h with hhash | hactive
    · exact hhash
    · cases hactive.symm.trans ht

/-- Settles O33: STATUS is a concatenation of its fields, and `step_done_hash` keeps the word behind DIGEST. -/
theorem statusAndDigestOutputs : Obligations.StatusAndDigestOutputs := by
  refine ⟨fun s => ?_, fun s t hs h ht => ?_⟩
  · rw [extractLsb'_status_phase]
    exact ⟨congrArg Phase.code, congrArg Phase.code, congrArg Phase.code, extractLsb'_status_err s,
      extractLsb'_status_zero s, digestOut_eq s⟩
  · rw [digestOut_eq, digestOut_eq, step_done_hash hs h ht, hs, ht]

/-! ### The unspecified contents in IDLE (V6, R120, R133) -/

theorem sameButUnspecified_respondOk (d : Word) {s t : State} (h : SameButUnspecified s t) :
    SameButUnspecified (respondOk d s) (respondOk d t) := by
  obtain ⟨hphase, herr, hport, -, hhash⟩ := h
  exact ⟨hphase, herr, hport, rfl, hhash⟩

theorem sameButUnspecified_execDecoded (d : Decoded) {s t : State} (h : SameButUnspecified s t) :
    ∃ s' t', execDecoded d s = .next s' ∧ execDecoded d t = .next t' ∧ SameButUnspecified s' t' := by
  obtain ⟨hphase, herr, hport, hrsp, hhash⟩ := h
  rcases execDecoded_cases_of_phase_eq d hphase with ⟨c, hs, ht⟩ | ⟨hs, ht⟩ | ⟨l, hs, ht⟩ | ⟨hp, bytes, hs, ht⟩ |
    ⟨hp, hs, ht⟩
  · exact ⟨_, _, hs, ht, hphase, by simp [herr], hport, rfl, hhash⟩
  · exact ⟨_, _, hs, ht, sameButUnspecified_respondOk 0 ⟨hphase, herr, hport, hrsp, hhash⟩⟩
  · exact ⟨_, _, hs, ht, sameButUnspecified_respondOk 0 ⟨rfl, rfl, hport, hrsp, fun _ => rfl⟩⟩
  · rw [← hhash (by simp [hp])] at ht
    exact ⟨_, _, hs, ht, sameButUnspecified_respondOk 0 ⟨hphase, herr, hport, hrsp, fun _ => rfl⟩⟩
  · rw [← hhash (by simp [hp])] at ht
    exact ⟨_, _, hs, ht, sameButUnspecified_respondOk _ ⟨rfl, herr, hport, hrsp, fun _ => rfl⟩⟩

theorem digestOut_eq_of_sameButUnspecified {s t : State} (h : SameButUnspecified s t) : digestOut s = digestOut t := by
  obtain ⟨hphase, -, -, -, hhash⟩ := h
  rw [digestOut_eq, digestOut_eq, ← hphase]
  split
  case isTrue hp => rw [hhash (by simp [hp])]
  case isFalse => rfl

/-- Settles O43: the outputs show the hashing state in DONE alone, and a step reads it outside IDLE alone. -/
theorem unspecifiedContentsAreInvisible : Obligations.UnspecifiedContentsAreInvisible := by
  intro s t h
  have hdigest := digestOut_eq_of_sameButUnspecified h
  obtain ⟨hphase, herr, hport, hrsp, hhash⟩ := h
  refine ⟨by simp [status, hphase, herr], hdigest, ?_⟩
  rcases hs : s.port with _ | ⟨cw | _, rest⟩ <;> have ht := hport.symm.trans hs
  · exact ⟨_, _, step_of_port_nil s hs, step_of_port_nil t ht, hphase, herr, hport, rfl, hhash⟩
  · rw [step_of_port_command s cw rest hs, step_of_port_command t cw rest ht]
    exact sameButUnspecified_execDecoded _ ⟨hphase, herr, rfl, hrsp, hhash⟩
  · exact ⟨_, _, step_of_port_reset s rest hs, step_of_port_reset t rest ht, rfl, rfl, rfl, rfl, fun hp => absurd rfl hp⟩

end Sys2Proof.Machine

/-! ## INIT as the start of every message

The proof of the statement of spec/20_memory.md: messages are independent, because INIT loads all of the hashing state. -/

namespace Sys2Proof.Machine

/-- Settles O17: both commands answer as `execInit_accepted` says, and what that loads depends on the lanes alone (R74,
R75). -/
theorem initErasesEarlierState : Obligations.InitErasesEarlierState := by
  intro len len' l s s' hlen hlen'
  exact ⟨_, _, execInit_accepted len l s hlen, execInit_accepted len' l s' hlen', rfl, rfl, rfl, rfl⟩

end Sys2Proof.Machine

/-! ## The encoding of command words, and the operands and fields they carry

Proofs of the statements of spec/30_encoding.md: the word of a command and its fields are each other's inverse, the
decoder goes by the opcode field alone, and the fields a command does not use change nothing. -/

namespace Sys2Proof.Machine

/-! ### The fields of a command word (R47, R49) -/

/-- A slice of a slice is a slice of the whole. -/
theorem extractLsb'_extractLsb' {w : Nat} (x : BitVec w) {start len start' len' : Nat} (h : start' + len' ≤ len) :
    (x.extractLsb' start len).extractLsb' start' len' = x.extractLsb' (start + start') len' := by
  apply BitVec.eq_of_getLsbD_eq
  intro i hi
  simp [hi, show start' + i < len by omega, Nat.add_assoc]

@[simp] theorem opField_cmdWord (op len : Byte) (l : Lanes) : opField (cmdWord op len l) = op :=
  BitVec.extractLsb'_append_eq_right

@[simp] theorem lenField_cmdWord (op len : Byte) (l : Lanes) : lenField (cmdWord op len l) = len :=
  (BitVec.extractLsb'_append_eq_of_le (by decide)).trans BitVec.extractLsb'_append_eq_right

@[simp] theorem lanesField_cmdWord (op len : Byte) (l : Lanes) : lanesField (cmdWord op len l) = l := by
  simp (disch := decide) only [lanesField, laneField, cmdWord, BitVec.extractLsb'_append_eq_of_le,
    BitVec.extractLsb'_append_eq_of_add_le]
  simp

/-- A command word is put together from its fields: they cover all of its bits and do not overlap (R47). -/
@[simp] theorem cmdWord_fields (cw : CmdWord) : cmdWord (opField cw) (lenField cw) (lanesField cw) = cw := by
  simp only [cmdWord, opField, lenField, lanesField, laneField]
  iterate 9 rw [BitVec.extractLsb'_append_extractLsb'_eq_extractLsb' (by rfl)]
  exact BitVec.extractLsb'_eq_self

/-- The mask 0xFF keeps the opcode field (R51). -/
theorem and_0xFF_eq_opField (cw : CmdWord) : cw &&& 0xFF = (opField cw).setWidth 80 := by
  apply BitVec.eq_of_toNat_eq
  rw [BitVec.toNat_and, opField, BitVec.toNat_setWidth, BitVec.extractLsb'_toNat,
    Nat.mod_eq_of_lt (Nat.lt_trans (Nat.mod_lt _ (by decide)) (by decide))]
  exact Nat.and_two_pow_sub_one_eq_mod cw.toNat 8

/-- A field of a command word, read by a shift. -/
theorem extractLsb'_eq_setWidth_ushiftRight (cw : CmdWord) (start : Nat) :
    cw.extractLsb' start 8 = (cw >>> start).setWidth 8 := by
  apply BitVec.eq_of_toNat_eq
  simp

/-! ### The decoder goes by the opcode field (R51, R56, R60) -/

section
variable {cw : CmdWord}

theorem decode_nop (h : opField cw = 0x00#8) : decode cw = .instr .nop := by
  simp [decode, h]

theorem decode_init (h : opField cw = 0x01#8) : decode cw = .instr (.init (lenField cw) (lanesField cw)) := by
  simp [decode, h]

theorem decode_update (h : opField cw = 0x02#8) : decode cw = .instr (.update (lenField cw) (lanesField cw)) := by
  simp [decode, h]

theorem decode_finalize (h : opField cw = 0x03#8) : decode cw = .instr .finalize := by
  simp [decode, h]

theorem decode_reserved (h : 0x04#8 ≤ opField cw) : decode cw = .reserved (opField cw) := by
  have hne : opField cw ≠ 0x00#8 := by bv_omega
  simp [decode, h, hne]

end

/-- The rows of the opcode map (R51, R56). -/
theorem opcode_cases (op : Byte) : op = 0x00#8 ∨ op = 0x01#8 ∨ op = 0x02#8 ∨ op = 0x03#8 ∨ 0x04#8 ≤ op := by
  bv_omega

/-- Settles O3: the opcode field of a command's word picks the command, and its operands are read back from their
fields (`lenField_cmdWord`, `lanesField_cmdWord`). -/
theorem decodeOfEncodeIsTheCommand : Obligations.DecodeOfEncodeIsTheCommand := by
  intro i
  cases i with
  | nop => exact decode_nop (opField_cmdWord _ _ _)
  | init len l => simp [encode, decode_init (opField_cmdWord 0x01#8 len l)]
  | update len l => simp [encode, decode_update (opField_cmdWord 0x02#8 len l)]
  | finalize => exact decode_finalize (opField_cmdWord _ _ _)

/-- Settles O4: an INIT or UPDATE takes all its fields from the word, a NOP or FINALIZE the opcode. -/
theorem encodeOfDecodeKeepsUsedBits : Obligations.EncodeOfDecodeKeepsUsedBits := by
  intro cw i hi
  rcases opcode_cases (opField cw) with h | h | h | h | h
  · cases (decode_nop h).symm.trans hi
    exact ⟨Laws.OpcodeByte.nop.trans h.symm, by simp [h]⟩
  · cases (decode_init h).symm.trans hi
    have hword : encode (.init (lenField cw) (lanesField cw)) = cw := by rw [encode, ← h, cmdWord_fields]
    exact ⟨congrArg opField hword, fun _ => hword⟩
  · cases (decode_update h).symm.trans hi
    have hword : encode (.update (lenField cw) (lanesField cw)) = cw := by rw [encode, ← h, cmdWord_fields]
    exact ⟨congrArg opField hword, fun _ => hword⟩
  · cases (decode_finalize h).symm.trans hi
    exact ⟨Laws.OpcodeByte.finalize.trans h.symm, by simp [h]⟩
  · cases (decode_reserved h).symm.trans hi

/-- Settles O5: the masked word is the opcode field (`and_0xFF_eq_opField`), and the shifted fields are those that the
decoder reads. -/
theorem opcodeMapByMaskAndMatch : Obligations.OpcodeMapByMaskAndMatch := by
  intro cw len lane lanes
  have hlen : lenField cw = len := extractLsb'_eq_setWidth_ushiftRight cw 8
  have hlanes : lanesField cw = lanes := by
    simp [lanesField, laneField, extractLsb'_eq_setWidth_ushiftRight, lanes, lane]
  have hop : opField cw = cw.setWidth 8 := (BitVec.setWidth_eq_extractLsb' (by decide)).symm
  rw [and_0xFF_eq_opField, ← hlen, ← hlanes, ← hop]
  exact ⟨fun h => decode_nop (by bv_omega), fun h => decode_init (by bv_omega), fun h => decode_update (by bv_omega),
    fun h => decode_finalize (by bv_omega), fun h => decode_reserved (by bv_omega)⟩

/-- Settles O6: the five words, run through the decoder. -/
theorem writtenWordsDecode : Obligations.WrittenWordsDecode := by
  unfold Obligations.WrittenWordsDecode
  decide

/-- Four neighbouring bytes of a command word, packed little-endian, are its 32 bits there (R10, R49). -/
theorem le32_extractLsb'_bytes (cw : CmdWord) (start : Nat) :
    le32 (cw.extractLsb' start 8) (cw.extractLsb' (start + 8) 8) (cw.extractLsb' (start + 16) 8)
      (cw.extractLsb' (start + 24) 8) = cw.extractLsb' start 32 := by
  have h := le32_extractLsb' (cw.extractLsb' start 32)
  iterate 4 rw [extractLsb'_extractLsb' cw (by decide)] at h
  exact h

/-- Settles O7: the payload's bytes are slices of a slice, and the key words pack four neighbouring bytes each. -/
theorem lanesAndKeyWordsAreSlicesOfTheWord : Obligations.LanesAndKeyWordsAreSlicesOfTheWord :=
  fun cw => ⟨fun i hi => ⟨rfl, (extractLsb'_extractLsb' cw (by omega)).symm⟩, le32_extractLsb'_bytes cw 16,
    le32_extractLsb'_bytes cw 48⟩

/-- Settles O8: the ten bytes are the fields, and `cmdWord_fields` reads the word back from them. -/
theorem tenByteFormIsLittleEndian : Obligations.TenByteFormIsLittleEndian := by
  refine ⟨fun cw rest => ⟨rfl, rfl, ?_⟩, fun cw => ?_, by decide, by decide⟩
  · exact congrArg (fun w => some (w, rest)) (cmdWord_fields cw)
  · rw [and_0xFF_eq_opField]
    simp

/-- Settles O9: the code and the digest are read back by `rspCode_rspWord` and `rspDigest_rspWord`. -/
theorem responseWordLayout : Obligations.ResponseWordLayout :=
  ⟨fun code d => ⟨rspCode_rspWord code d, rspDigest_rspWord code d, by simp [rspBytes]⟩, by decide, by decide⟩

/-! ### Fields a command does not use (R57) -/

/-- NOP, FINALIZE and the reserved opcodes are decoded from the opcode field alone. -/
theorem decode_eq_of_opField_eq {cw cw' : CmdWord} (heq : opField cw = opField cw')
    (hop : opField cw = 0x00#8 ∨ opField cw = 0x03#8 ∨ 0x04#8 ≤ opField cw) : decode cw = decode cw' := by
  rcases hop with h | h | h
  · rw [decode_nop h, decode_nop (heq ▸ h)]
  · rw [decode_finalize h, decode_finalize (heq ▸ h)]
  · rw [decode_reserved h, decode_reserved (heq ▸ h), heq]

/-- The message bytes of an UPDATE rest on the lanes below `len` alone (R53). -/
theorem payload_eq_of_lanes_eq {len : Byte} {l l' : Lanes}
    (h : ∀ i, i < len.toNat → (laneList l)[i]? = (laneList l')[i]?) : payload len l = payload len l' := by
  apply List.ext_getElem?
  intro i
  rw [payload, payload, List.getElem?_take, List.getElem?_take]
  split
  case isTrue hi => exact h i hi
  case isFalse => rfl

/-- An UPDATE does not depend on the lanes at `len` and above, and a rejected one on no lane. -/
theorem execUpdate_eq_of_lanes_eq {len : Byte} {l l' : Lanes} {s : State}
    (h : s.phase = .active → len.toNat ≤ 8 → ∀ i, i < len.toNat → (laneList l)[i]? = (laneList l')[i]?) :
    execUpdate len l s = execUpdate len l' s := by
  rcases phase_cases s.phase with hp | hp | hp
  · rw [execUpdate_idle len l s hp, execUpdate_idle len l' s hp]
  · rcases Nat.lt_or_ge 8 len.toNat with hlen | hlen
    · rw [execUpdate_badLength len l s hp hlen, execUpdate_badLength len l' s hp hlen]
    · rw [execUpdate_accepted len l s hp hlen, execUpdate_accepted len l' s hp hlen,
        payload_eq_of_lanes_eq (h hp hlen)]
  · rw [execUpdate_done len l s hp, execUpdate_done len l' s hp]

theorem bytes_eq_of_le32_eq {a0 a1 a2 a3 b0 b1 b2 b3 : Byte} (h : le32 a0 a1 a2 a3 = le32 b0 b1 b2 b3) :
    [a0, a1, a2, a3] = [b0, b1, b2, b3] := by
  rw [← bytesLe_le32, h, bytesLe_le32]

/-- The registers that an accepted INIT loads give back all eight key bytes (R73, R74). -/
theorem keyedHash_injective : Function.Injective keyedHash := by
  intro l l' h
  obtain ⟨hv, -⟩ := HashState.mk.inj h
  obtain ⟨hv0, hv1, -⟩ := Regs.mk.inj hv
  have h0 := bytes_eq_of_le32_eq ((BitVec.xor_right_inj c0).mp hv0)
  have h1 := bytes_eq_of_le32_eq ((BitVec.xor_right_inj c1).mp hv1)
  cases l
  cases l'
  cases h0
  cases h1
  rfl

/-- Settles O28: in turn `decode_eq_of_opField_eq`, `execUpdate_eq_of_lanes_eq`, the one rejection of INIT, and
`keyedHash_injective`. -/
theorem ignoredFieldsChangeNothing : Obligations.IgnoredFieldsChangeNothing := by
  refine ⟨fun cw cw' s heq hop => by rw [decode_eq_of_opField_eq heq hop],
    fun len l l' s h => execUpdate_eq_of_lanes_eq h,
    fun len l l' s h => (execInit_rejected len l s h).trans (execInit_rejected len l' s h).symm, ?_⟩
  intro len l l' s t t' hlen ht ht' hhash
  cases (execInit_accepted len l s hlen).symm.trans ht
  cases (execInit_accepted len l' s hlen).symm.trans ht'
  exact keyedHash_injective hhash

/-! ### Legal operands (R53, R72) -/

/-- Settles O32: in ACTIVE the length tests are the only ones left, and they are the predicate's. -/
theorem legalOperandsAreAcceptedInActive : Obligations.LegalOperandsAreAcceptedInActive := by
  intro i s hp
  cases i with
  | nop => exact ⟨_, rfl, iff_of_true (accepted_respondOk _ _) rfl⟩
  | init len l =>
    rcases Nat.lt_or_ge len.toNat 8 with h | h
    · exact ⟨_, execInit_rejected len l s h,
        iff_of_false (not_accepted_reject _ _) (by simp [Instr.wellFormed, h])⟩
    · exact ⟨_, execInit_accepted len l s h, iff_of_true (accepted_respondOk _ _) (decide_eq_true h)⟩
  | update len l =>
    rcases Nat.lt_or_ge 8 len.toNat with h | h
    · exact ⟨_, execUpdate_badLength len l s hp h,
        iff_of_false (not_accepted_reject _ _) (by simp [Instr.wellFormed, h])⟩
    · exact ⟨_, execUpdate_accepted len l s hp h, iff_of_true (accepted_respondOk _ _) (decide_eq_true h)⟩
  | finalize => exact ⟨_, execFinalize_accepted s hp, iff_of_true (accepted_respondOk _ _) rfl⟩

/-! ### The step on a presented word (R56, R60, R127, R131) -/

/-- Settles O34: `step_of_port_command`, with the decoding known. -/
theorem stepRunsTheDecodedCommand : Obligations.StepRunsTheDecodedCommand := by
  intro s cw rest i hport hdec
  rw [step_of_port_command s cw rest hport, hdec]
  rfl

/-- Settles O35: the decoder keeps the opcode 0x04 and above apart before it reads any other field. -/
theorem stepRejectsReservedOpcodes : Obligations.StepRejectsReservedOpcodes := by
  intro s cw rest hport hop
  rw [step_of_port_command s cw rest hport, decode_reserved hop]
  rfl

/-- Settles O37: an empty port is answered as a NOP is, and a word of opcode 0x00 is a NOP. -/
theorem stepHoldsWithNothingPresented : Obligations.StepHoldsWithNothingPresented := by
  refine ⟨fun s hport => ?_, fun s cw rest hport hop => ?_⟩
  · rw [step_of_port_nil s hport]
    exact ⟨rfl, rfl⟩
  · rw [stepRunsTheDecodedCommand s cw rest .nop hport (decode_nop hop)]
    rfl

end Sys2Proof.Machine

/-! ## SIPROUND, its repetition and its inverse

Proofs of the statements of spec/40_round.md. -/

namespace Sys2Proof.Machine

/-! ### The round as a pure function (R66, R68, R70) -/

/-- Settles O10: running the assignments s1 to s14 on the four registers gives the single-assignment form. -/
theorem roundInSingleAssignmentForm : Obligations.RoundInSingleAssignmentForm :=
  fun _ _ _ _ => rfl

/-- Settles O12: every example is a closed computation of one round. -/
theorem roundExamples : Obligations.RoundExamples := by
  unfold Obligations.RoundExamples
  decide

/-- `sipRounds` runs the first round first, as `Function.iterate` does (R68). -/
theorem sipRounds_eq_iterate (n : Nat) (v : Regs) : sipRounds n v = sipRound^[n] v := by
  induction n generalizing v with
  | zero => rfl
  | succ n ih => rw [sipRounds, ih, Function.iterate_succ_apply]

/-- Settles O47: `sipRounds_eq_iterate` for every count, and the table's rows by computation. -/
theorem roundsAreRepeatedRound : Obligations.RoundsAreRepeatedRound :=
  ⟨sipRounds_eq_iterate, by decide⟩

/-! ### The inverse of the round (R67)

Each assignment of the round is undone on its own: a rotation by the rotation the other way (the lemmas below), an
addition by a subtraction and an xor by the same xor (the library's). -/

/-- Rotating left by `n` and then by `32-n` is a full turn. -/
theorem rotl32_rotl32_sub (x : Word) (n : Nat) (hpos : 0 < n) (hlt : n < 32) :
    rotl32 (rotl32 x n) (32 - n) = x := by
  apply BitVec.eq_of_getLsbD_eq
  intro i hi
  have turn : ((i + n) % 32 + (32 - n)) % 32 = i := by omega
  calc (rotl32 (rotl32 x n) (32 - n)).getLsbD i
      = (rotl32 (rotl32 x n) (32 - n)).getLsbD (((i + n) % 32 + (32 - n)) % 32) := by rw [turn]
    _ = (rotl32 x n).getLsbD ((i + n) % 32) := getLsbD_rotl32 _ _ _ (by omega) (by omega)
    _ = x.getLsbD i := getLsbD_rotl32 x n i hlt hi

theorem rotr32_rotl32 (x : Word) (n : Nat) (hpos : 0 < n) (hlt : n < 32) : rotr32 (rotl32 x n) n = x :=
  rotl32_rotl32_sub x n hpos hlt

theorem rotl32_rotr32 (x : Word) (n : Nat) (hpos : 0 < n) (hlt : n < 32) : rotl32 (rotr32 x n) n = x := by
  have turn := rotl32_rotl32_sub x (32 - n) (by omega) (by omega)
  rwa [show 32 - (32 - n) = n by omega] at turn

theorem sipRoundInverse_sipRound : Function.LeftInverse sipRoundInverse sipRound := by
  intro v
  simp [sipRound, sipRoundInverse, add32, rotr32_rotl32]

theorem sipRound_sipRoundInverse : Function.RightInverse sipRoundInverse sipRound := by
  intro v
  simp [sipRound, sipRoundInverse, add32, rotl32_rotr32]

/-- Settles O11: a function with a two-sided inverse is bijective, and the formulas are the inverse's own. -/
theorem roundIsABijection : Obligations.RoundIsABijection :=
  ⟨⟨sipRoundInverse_sipRound.injective, sipRound_sipRoundInverse.surjective⟩,
    fun v => ⟨sipRoundInverse_sipRound v, sipRound_sipRoundInverse v⟩, fun _ _ => rfl, fun _ _ _ _ => rfl⟩

end Sys2Proof.Machine

/-! ## The whole command INIT

The proof of the statement of spec/41_init.md. -/

namespace Sys2Proof.Machine

/-- The constants `c0` and `c1` are zero, so they drop out of the initial registers (R74). -/
theorem initRegs_eq (k0 k1 : Word) : initRegs k0 k1 = ⟨k0, k1, 0x6C796765 ^^^ k0, 0x74656462 ^^^ k1⟩ := by
  simp [initRegs, c0, c1, c2, c3]

/-- The hashing state an accepted INIT loads, from the lanes (R73, R74, R75). -/
theorem keyedHash_eq (l : Lanes) :
    keyedHash l =
      let k0 := le32 l.lane0 l.lane1 l.lane2 l.lane3
      let k1 := le32 l.lane4 l.lane5 l.lane6 l.lane7
      ⟨⟨k0, k1, 0x6C796765 ^^^ k0, 0x74656462 ^^^ k1⟩, ⟨0, 0, 0⟩, 0, 0⟩ := by
  rw [keyedHash, initRegs_eq]
  rfl

/-- Settles O16: the accepted command loads `keyedHash`, which `keyedHash_eq` writes out; the rejected one is
`reject .invalidKeyLength`, the statement's next state by definition (R72, R76). -/
theorem initLoadsKeyedStateOrRejects : Obligations.InitLoadsKeyedStateOrRejects := by
  intro len l s k0 k1
  refine ⟨fun hlen => ?_, execInit_rejected len l s⟩
  have accepted := execInit_accepted len l s hlen
  rw [keyedHash_eq] at accepted
  exact accepted

end Sys2Proof.Machine

/-! ## The accumulator and the whole command UPDATE

Proofs of the statements of spec/42_update.md. -/

namespace Sys2Proof.Machine

/-! ### COMPRESS and ABSORB (R78, R79) -/

/-- Settles O13: `cROUNDS` is 2, so the formula is the definition's own; the example is a closed computation. -/
theorem compressIsXorRoundsXor : Obligations.CompressIsXorRoundsXor :=
  ⟨fun _ _ _ _ _ => rfl, by decide⟩

/-- Settles O14: the three buffering cases are `absorb_pending`, the completed word is `absorb_full`. -/
theorem absorbBuffersOrCompresses : Obligations.AbsorbBuffersOrCompresses := by
  intro v s0 s1 s2 total x
  have htotal : total + 4 = BitVec.ofNat 8 ((total.toNat + 4) % 256) :=
    BitVec.eq_of_toNat_eq (by simp)
  refine ⟨absorb_pending _ x (by simp), absorb_pending _ x (by simp), absorb_pending _ x (by simp), ?_⟩
  rw [← htotal]
  exact absorb_full _ x rfl

/-! ### The accepted and the rejected command (R81, R82, R85) -/

/-- Settles O18: phase and length pick one of the four answers of `execUpdate`, and the next state of each is the
statement's by definition. -/
theorem updateAbsorbsLanesOrRejects : Obligations.UpdateAbsorbsLanesOrRejects :=
  fun len l s => ⟨execUpdate_idle len l s, execUpdate_done len l s, execUpdate_badLength len l s,
    execUpdate_accepted len l s⟩

/-- Settles O21: fewer than four bytes in hand, so `absorbAll_of_short` says what ABSORB leaves of the hashing state. -/
theorem partialWordStaysPending : Obligations.PartialWordStaysPending := by
  intro len l s hp hshort
  have hlen : len.toNat ≤ 8 := by omega
  rw [← payload_length len l hlen] at hshort
  obtain ⟨b, f, hab⟩ := absorbAll_of_short _ _ hshort
  have accepted := execUpdate_accepted len l s hp hlen
  rw [hab] at accepted
  exact ⟨b, f, accepted⟩

/-! ### Legal UPDATEs one after another (R84) -/

/-- In ACTIVE, legal UPDATEs are all accepted, and together absorb the stream they carry; `rsp` alone tells how many
there were. -/
theorem execAll_legalUpdates (us : List Instr) (s : State) (hp : s.phase = .active)
    (hus : ∀ i ∈ us, isLegalUpdate i = true) :
    ∃ t, execAll us s = .next t ∧ AllAccepted us s ∧
      { t with rsp := none } = { s with hash := absorbAll s.hash (streamOf us), rsp := none } := by
  induction us generalizing s with
  | nil => exact ⟨s, rfl, trivial, rfl⟩
  | cons i rest ih =>
    obtain ⟨hi, hrest⟩ := List.forall_mem_cons.mp hus
    have hexec := exec_stream_command i s (.inl hi) hp
    obtain ⟨t, ht, hacc, heq⟩ := ih (respondOk 0 { s with hash := absorbAll s.hash (streamBytes i) }) hp hrest
    refine ⟨t, (execAll_cons_of_next hexec rest).trans ht, ⟨_, hexec, accepted_respondOk _ _, hacc⟩, ?_⟩
    rw [heq, streamOf_cons, absorbAll_append]
    rfl

/-- Settles O20: by `execAll_legalUpdates` each sequence ends in a state given by its stream. -/
theorem updateChunkInvariance : Obligations.UpdateChunkInvariance := by
  refine ⟨fun us ws s hp hus hws hstream => ?_, fun l s hp => execUpdate_accepted 0 l s hp (by decide)⟩
  obtain ⟨t, ht, haccUs, htEq⟩ := execAll_legalUpdates us s hp hus
  obtain ⟨u, hu, haccWs, huEq⟩ := execAll_legalUpdates ws s hp hws
  exact ⟨t, u, ht, hu, haccUs, haccWs, by rw [htEq, huEq, hstream]⟩

/-! ### The closed form (R83) -/

/-- The `j`-th four bytes as a little-endian word; a place past the end reads as 0. -/
def wordAt (bytes : List Byte) (j : Nat) : Word :=
  le32 (bytes.getD (4 * j) 0) (bytes.getD (4 * j + 1) 0) (bytes.getD (4 * j + 2) 0) (bytes.getD (4 * j + 3) 0)

/-- The cut of a message at the word boundaries, by index. -/
theorem splitWords_eq (msg : List Byte) :
    splitWords msg = ((List.range (msg.length / 4)).map (wordAt msg), msg.drop (4 * (msg.length / 4))) := by
  induction msg using splitWords.induct with
  | case1 b0 b1 b2 b3 rest ih =>
    have hwords : (b0 :: b1 :: b2 :: b3 :: rest).length / 4 = rest.length / 4 + 1 :=
      Nat.add_div_right rest.length (by decide : 0 < 4)
    rw [splitWords, ih, hwords, List.range_succ_eq_map, List.map_cons, List.map_map]
    rfl
  | case2 tail short =>
    have hlt := splitWords_snd_length_lt tail
    rw [splitWords.eq_2 tail short] at hlt ⊢
    simp [Nat.div_eq_of_lt hlt]

theorem pending_length (h : HashState) : (pending h).length = h.fill.toNat := by
  rw [pending, List.length_take]
  exact Nat.min_eq_left (Nat.le_of_lt_succ h.fill.isLt)

/-- With zero in every slot at `fill` and above (V2), the pending bytes are all that the buffer holds. -/
theorem tailState_pending (h : HashState) (hb : BufClean h) : tailState h.v (pending h) h.total = h := by
  obtain ⟨v, ⟨s0, s1, s2⟩, fill, total⟩ := h
  have fills : ∀ f : BitVec 2, f = 0 ∨ f = 1 ∨ f = 2 ∨ f = 3 := by decide
  obtain ⟨h0, h1, h2⟩ := hb
  rcases fills fill with rfl | rfl | rfl | rfl
  · obtain rfl : s0 = 0 := h0 rfl
    obtain rfl : s1 = 0 := h1 (show 0#2 ≤ 1#2 by decide)
    obtain rfl : s2 = 0 := h2 (show 0#2 ≤ 2#2 by decide)
    rfl
  · obtain rfl : s1 = 0 := h1 (show 1#2 ≤ 1#2 by decide)
    obtain rfl : s2 = 0 := h2 (show 1#2 ≤ 2#2 by decide)
    rfl
  · obtain rfl : s2 = 0 := h2 (show 2#2 ≤ 2#2 by decide)
    rfl
  · rfl

/-- From a clean buffer, absorbing is absorbing the bytes in hand, pending and new, from an empty one. -/
theorem absorbAll_eq_absorbAll_pending (h : HashState) (hb : BufClean h) (bytes : List Byte) :
    absorbAll h bytes = absorbAll (tailState h.v [] h.total) (pending h ++ bytes) := by
  have hlt : (pending h).length < 4 := pending_length h ▸ h.fill.isLt
  rw [absorbAll_append, absorbAll_short _ _ _ hlt, tailState_pending h hb]

/-- From a clean buffer, absorbing compresses the complete words of the bytes in hand in order, leaves the rest pending
and counts the compressed bytes (R83). -/
theorem absorbAll_closedForm (h : HashState) (hb : BufClean h) (bytes : List Byte) {q : Nat}
    (hq : (pending h ++ bytes).length / 4 = q) :
    absorbAll h bytes = tailState (compressAll h.v ((List.range q).map (wordAt (pending h ++ bytes))))
      ((pending h ++ bytes).drop (4 * q)) (h.total + BitVec.ofNat 8 (4 * q)) := by
  rw [absorbAll_eq_absorbAll_pending h hb, absorbAll_eq_tailState, splitWords_eq, List.length_map, List.length_range,
    hq]

/-- Settles O19: the fields of `absorbAll_closedForm`, with the length of the bytes in hand. -/
theorem updateClosedForm : Obligations.UpdateClosedForm := by
  intro len l s hp hlen hb f bytes q
  have hf : f < 4 := s.hash.fill.isLt
  have hlength : bytes.length = f + len.toNat := by
    rw [List.length_append, pending_length, payload_length len l hlen]
  have hclosed := absorbAll_closedForm s.hash hb (payload len l) (q := q) (congrArg (· / 4) hlength)
  have accepted := execUpdate_accepted len l s hp hlen
  rw [hclosed] at accepted
  refine ⟨_, accepted, rfl, ?_, ?_, by omega, hlength, ?_, ?_, ?_⟩
  · show (BitVec.ofNat 2 (bytes.drop (4 * q)).length).toNat = (f + len.toNat) % 4
    rw [List.length_drop, hlength, BitVec.toNat_ofNat]
    omega
  · simp [tailState]
  all_goals simp [tailState, bytes]

end Sys2Proof.Machine

/-! ## The length byte, the final word and the whole command FINALIZE

Proofs of the statements of spec/43_finalize.md. -/

namespace Sys2Proof.Machine

/-! ### The length byte (R91) -/

theorem toNat_lengthByte (h : HashState) : (lengthByte h).toNat = (h.total.toNat + h.fill.toNat) % 256 := by
  simp [lengthByte]

/-- With `total[1:0]` zero (V3) the addition carries nothing out of the low two bits. -/
theorem lengthByte_eq_append (h : HashState) (ht : TotalAligned h) :
    lengthByte h = h.total.extractLsb' 2 6 ++ h.fill := by
  have hlow : h.total.toNat % 4 = 0 := by simpa using congrArg BitVec.toNat ht
  have hhigh : (h.total.extractLsb' 2 6).toNat = h.total.toNat / 4 := by
    rw [BitVec.extractLsb'_toNat, Nat.shiftRight_eq_div_pow]
    omega
  apply BitVec.eq_of_toNat_eq
  rw [toNat_lengthByte, BitVec.toNat_append, ← Nat.shiftLeft_add_eq_or_of_lt h.fill.isLt, hhigh, Nat.shiftLeft_eq]
  omega

/-- Settles O23: the sum modulo 256, and its concatenated form where `total` is aligned. -/
theorem lengthByteIsTotalPlusFill : Obligations.LengthByteIsTotalPlusFill :=
  fun h => ⟨toNat_lengthByte h, lengthByte_eq_append h⟩

/-! ### The final word (R92) -/

theorem fill_cases (fill : BitVec 2) : fill = 0 ∨ fill = 1 ∨ fill = 2 ∨ fill = 3 := by
  revert fill
  decide

/-- The final word ignores the slots at `fill` and above: it is that of a clean buffer with the same pending bytes. -/
theorem finalWord_tailState_pending (h : HashState) : finalWord (tailState h.v (pending h) h.total) = finalWord h := by
  obtain ⟨v, ⟨s0, s1, s2⟩, fill, total⟩ := h
  rcases fill_cases fill with rfl | rfl | rfl | rfl
  all_goals simp [finalWord, tailState, pending, lengthByte]

/-- The length byte above the pending bytes, zero in the place of each byte not pending (R92). -/
theorem finalWord_eq_append (h : HashState) :
    finalWord h = lengthByte h ++ (pending h).getD 2 0 ++ (pending h).getD 1 0 ++ (pending h).getD 0 0 := by
  have hlt : (pending h).length < 4 := pending_length h ▸ h.fill.isLt
  have hlen : lengthByte (tailState h.v (pending h) h.total) = lengthByte h := by
    simp [lengthByte, tailState, pending_length]
  rw [← finalWord_tailState_pending, finalWord_eq_le32 _ (bufClean_tailState _ _ _ hlt), le32_eq_append, hlen]
  rfl

/-- Settles O24: at each fill count the pending bytes of `finalWord_eq_append` are the slots below it; a clean buffer is
`finalWord_eq_le32`. -/
theorem finalWordByFill : Obligations.FinalWordByFill := by
  intro v s0 s1 s2 total fill h
  refine ⟨?_, ?_, ?_, ?_, finalWord_eq_le32 h⟩
  all_goals
    rintro rfl
    exact finalWord_eq_append h

/-! ### The accepted and the rejected command (R90, R96) -/

/-- Settles O25: the phase picks one of the three answers of `execFinalize`, and the next state of each is the
statement's by definition. -/
theorem finalizeDeliversDigestOrRejects : Obligations.FinalizeDeliversDigestOrRejects :=
  fun s => ⟨execFinalize_idle s, execFinalize_done s, execFinalize_accepted s⟩

end Sys2Proof.Machine

/-! ## NOP, and the one-shot pseudo-command HASH

Proofs of the statements of spec/44_nop_and_oneshot.md. -/

namespace Sys2Proof.Machine

/-- Settles O15: NOP answers `OK(0)` by definition, and `decode_nop` reads the opcode alone. -/
theorem nopOnlyResponds : Obligations.NopOnlyResponds :=
  ⟨fun _ => rfl, fun _ hop => decode_nop hop⟩

/-! ### The pieces of UPDATE* (R62, R101) -/

theorem laneList_padLanes (bs : List Byte) : laneList (padLanes bs) = (List.range 8).map (bs.getD · 0) := rfl

/-- The short form carries exactly the bytes it is written with: `len` cuts the padding off (R62). -/
theorem streamBytes_shortUpdate (bs : List Byte) (h : bs.length ≤ 8) : streamBytes (shortUpdate bs) = bs := by
  have hlen : (BitVec.ofNat 8 bs.length).toNat = bs.length := Nat.mod_eq_of_lt (by omega)
  show payload (BitVec.ofNat 8 bs.length) (padLanes bs) = bs
  rw [payload, hlen, laneList_padLanes]
  apply List.ext_getElem
  · simp [h]
  · intro i _ hi
    simp [hi]

theorem isLegalUpdate_shortUpdate (bs : List Byte) (h : bs.length ≤ 8) : isLegalUpdate (shortUpdate bs) = true :=
  decide_eq_true ((Nat.mod_le _ _).trans h)

theorem updateStar_length (msg : List Byte) : (updateStar msg).length = (msg.length + 7) / 8 := by
  simp [updateStar]

theorem isLegalUpdate_of_mem_updateStar {msg : List Byte} {i : Instr} (hi : i ∈ updateStar msg) :
    isLegalUpdate i = true := by
  obtain ⟨j, -, rfl⟩ := List.mem_map.mp hi
  exact isLegalUpdate_shortUpdate _ (List.length_take_le _ _)

/-- The first `k` pieces of eight bytes, put together. -/
theorem flatMap_take_drop_eight (msg : List Byte) (k : Nat) :
    (List.range k).flatMap (fun i => (msg.drop (8 * i)).take 8) = msg.take (8 * k) := by
  induction k with
  | zero => simp
  | succ k ih => rw [List.range_succ, List.flatMap_append, ih, List.flatMap_singleton, Nat.mul_succ, List.take_add]

/-- `UPDATE*` brings the message to the stream, whole and in order (R101). -/
theorem streamOf_updateStar (msg : List Byte) : streamOf (updateStar msg) = msg := by
  have pieces (i : Nat) : streamBytes (shortUpdate ((msg.drop (8 * i)).take 8)) = (msg.drop (8 * i)).take 8 :=
    streamBytes_shortUpdate _ (List.length_take_le _ _)
  rw [streamOf, updateStar, List.flatMap_map]
  simp only [pieces]
  rw [flatMap_take_drop_eight, List.take_of_length_le (by omega)]

/-! ### The commands of HASH (R100) -/

theorem hashCommands_eq (key msg : List Byte) (hkey : 8 ≤ key.length) :
    hashCommands key msg = keyInit key :: (updateStar msg ++ [.finalize]) :=
  if_neg (Nat.not_lt.mpr hkey)

theorem hashCommands_length (key msg : List Byte) (hkey : 8 ≤ key.length) :
    (hashCommands key msg).length = (msg.length + 7) / 8 + 2 := by
  simp [hashCommands_eq key msg hkey, updateStar_length]

/-- The saturated key length of `keyInit` passes INIT's test (R72, R100). -/
theorem eight_le_keyInit_len (key : List Byte) (hkey : 8 ≤ key.length) :
    8 ≤ (BitVec.ofNat 8 (min key.length 255)).toNat := by
  rw [BitVec.toNat_ofNat]
  omega

/-- The commands of HASH leave the state that FINALIZE makes of the absorbed message, and respond with its digest
(R100, R102). -/
theorem execAll_hashCommands (key msg : List Byte) (s : State) (hkey : 8 ≤ key.length) :
    execAll (hashCommands key msg) s = .next (respondOk (hsh32 (padLanes key) msg)
      { s with hash := finalizeHash (absorbAll (keyedHash (padLanes key)) msg), phase := .done, err := 0 }) := by
  have h := execAll_message _ (padLanes key) (updateStar msg) s (eight_le_keyInit_len key hkey)
    fun _ hi => .inl (isLegalUpdate_of_mem_updateStar hi)
  rwa [streamOf_updateStar, ← keyInit, ← hashCommands_eq key msg hkey] at h

/-! ### From commands executed in turn to words on the port (R43, R60, R127) -/

/-- A command neither reads nor writes what the port holds (R34, R43). -/
theorem exec_withPort (i : Instr) (s : State) (port : List HostInput) :
    ∃ t, exec i s = .next t ∧ exec i { s with port := port } = .next { t with port := port } := by
  rcases execDecoded_cases_of_phase_eq (.instr i) (s := s) (t := { s with port := port }) rfl with
    ⟨c, hs, hport⟩ | ⟨hs, hport⟩ | ⟨l, hs, hport⟩ | ⟨_, bytes, hs, hport⟩ | ⟨_, hs, hport⟩
  all_goals exact ⟨_, hs, hport⟩

theorem run_core_succ_of_next {s t : State} (h : step s = .next t) (k : Nat) :
    Host.Core.run Sys2Proof.core (k + 1) s = Host.Core.run Sys2Proof.core k t := by
  have hcore : Host.Core.step Sys2Proof.core s = .next t := h
  simp only [Host.Core.run, hcore]

/-- Commands whose words stand on the port run in one step each, and do what they do executed in turn. -/
theorem run_core_asInputs {cmds : List Instr} {s t : State} (rest : List HostInput)
    (h : execAll cmds s = .next t) :
    Host.Core.run Sys2Proof.core cmds.length { s with port := asInputs cmds ++ rest } =
      .next { t with port := rest } := by
  induction cmds generalizing s with
  | nil =>
    obtain rfl : s = t := by simpa [execAll] using h
    rfl
  | cons i cmds ih =>
    obtain ⟨s', hexec, hexecPort⟩ := exec_withPort i s (asInputs cmds ++ rest)
    rw [execAll_cons_of_next hexec] at h
    have hstep := stepRunsTheDecodedCommand { s with port := asInputs (i :: cmds) ++ rest } (encode i)
      (asInputs cmds ++ rest) i rfl (decodeOfEncodeIsTheCommand i)
    rw [List.length_cons, run_core_succ_of_next (hstep.trans hexecPort)]
    exact ih h

/-- Settles O46: the words of `hashCommands` run as `execAll_hashCommands` says, whatever follows them on the port. -/
theorem hashCommandsDeliverTheDigest : Obligations.HashCommandsDeliverTheDigest := by
  intro key msg rest s hkey hport
  have hrun := run_core_asInputs rest (execAll_hashCommands key msg s hkey)
  rw [← hport, hashCommands_length key msg hkey] at hrun
  exact ⟨hashCommands_length key msg hkey, _, hrun, rfl, rfl, rfl, rfl⟩

end Sys2Proof.Machine

/-! ## Rejections: their effect, their codes, and what follows them

Proofs of the statements of spec/60_exceptions.md. -/

namespace Sys2Proof.Machine

/-! ### What a rejection leaves (R110) -/

/-- Settles O29: the accepted answers of `next_of_execDecoded` are no rejections, and the one left is `reject`, the
statement's next state by definition. -/
theorem rejectionChangesOnlyErr : Obligations.RejectionChangesOnlyErr := by
  intro d s t h hr
  rcases next_of_execDecoded h with ⟨-, rfl⟩ | ⟨_, _, -, -, rfl⟩ | ⟨_, _, -, -, -, rfl⟩ | ⟨-, -, rfl⟩ | ⟨c, -, rfl⟩
  case inr.inr.inr.inr => exact ⟨c, rfl⟩
  all_goals exact absurd hr (not_rejected_respondOk _ _)

/-! ### The table of responses (R112, R126) -/

/-- Every command answers with a response word of the table's code, whose digest field is zero but for an accepted
FINALIZE, and leaves the table's phase (R59, R112, R126). -/
theorem exec_answers_table (i : Instr) (s : State) :
    ∃ t d, exec i s = .next t ∧ t.rsp = some (rspWord (tableCode i s.phase) d) ∧
      t.phase = tablePhase i s.phase ∧ (d ≠ 0 → i = .finalize ∧ s.phase = .active) := by
  cases i with
  | nop => exact ⟨_, 0, rfl, rfl, rfl, absurd rfl⟩
  | init len l =>
    rcases Nat.lt_or_ge len.toNat 8 with h | h
    · exact ⟨_, 0, execInit_rejected len l s h, by simp [tableCode, Nat.not_le.mpr h, Cause.code],
        by simp [tablePhase, Nat.not_le.mpr h], absurd rfl⟩
    · exact ⟨_, 0, execInit_accepted len l s h, by simp [tableCode, h], by simp [tablePhase, h], absurd rfl⟩
  | update len l =>
    rcases phase_cases s.phase with hp | hp | hp
    · exact ⟨_, 0, execUpdate_idle len l s hp, by simp [tableCode, hp, Cause.code], rfl, absurd rfl⟩
    · rcases Nat.lt_or_ge 8 len.toNat with h | h
      · exact ⟨_, 0, execUpdate_badLength len l s hp h,
          by simp [tableCode, hp, Nat.not_le.mpr h, Cause.code], rfl, absurd rfl⟩
      · exact ⟨_, 0, execUpdate_accepted len l s hp h, by simp [tableCode, hp, h], rfl, absurd rfl⟩
    · exact ⟨_, 0, execUpdate_done len l s hp, by simp [tableCode, hp, Cause.code], rfl, absurd rfl⟩
  | finalize =>
    rcases phase_cases s.phase with hp | hp | hp
    · exact ⟨_, 0, execFinalize_idle s hp, by simp [tableCode, hp, Cause.code], by simp [tablePhase, hp], absurd rfl⟩
    · exact ⟨_, digestWord (finalizeHash s.hash).v, execFinalize_accepted s hp, by simp [tableCode, hp],
        by simp [tablePhase, hp], fun _ => ⟨rfl, hp⟩⟩
    · exact ⟨_, 0, execFinalize_done s hp, by simp [tableCode, hp, Cause.code], by simp [tablePhase, hp], absurd rfl⟩

/-- Settles O30: `exec_answers_table`, read through the two fields of the response word; a reserved opcode is
`reject .illegalCommand`. -/
theorem responseCodeTable : Obligations.ResponseCodeTable := by
  refine ⟨fun i s => ?_, fun op s => ⟨_, rfl, rfl, rfl⟩⟩
  obtain ⟨t, d, hexec, hrsp, hphase, hdigest⟩ := exec_answers_table i s
  exact ⟨t, _, hexec, hrsp, rspCode_rspWord _ d, hphase, by rwa [rspDigest_rspWord]⟩

/-! ### Nothing else fails (R115, R128, R129) -/

theorem exec_completes (i : Instr) (s : State) : ∃ t, exec i s = .next t := by
  obtain ⟨t, d, hexec, -⟩ := exec_answers_table i s
  exact ⟨t, hexec⟩

theorem execDecoded_completes : ∀ (d : Decoded) (s : State), ∃ t, execDecoded d s = .next t
  | .instr i, s => exec_completes i s
  | .reserved _, _ => ⟨_, rfl⟩

/-- Settles O39: whatever the port presents is answered with a next state, and NOP and a long enough INIT do not look
at the state. -/
theorem everyStepCompletes : Obligations.EveryStepCompletes := by
  refine ⟨fun s => ?_, fun s => ⟨_, rfl, accepted_respondOk _ _⟩,
    fun len l s hlen => ⟨_, execInit_accepted len l s hlen, accepted_respondOk _ _, rfl⟩⟩
  rcases step_cases s with ⟨-, hstep⟩ | ⟨rest, -, hstep⟩ | ⟨cw, rest, -, hstep⟩
  · exact ⟨_, hstep⟩
  · exact ⟨_, hstep⟩
  · rw [hstep]
    exact execDecoded_completes (decode cw) _

/-! ### What `err` tells of the commands before (R114, R128) -/

/-- A rejection leaves an error: the first cause's code, or the one that was there. -/
theorem reject_err_ne_zero (c : Cause) (s : State) : (reject c s).err ≠ 0 := by
  rw [reject_err]
  split
  case isTrue => exact c.code_ne_zero
  case isFalse h => exact h

/-- A command other than INIT that leaves no error was accepted, and found none: only INIT clears `err`. -/
theorem accepted_of_exec_of_err_eq_zero {i : Instr} {s t : State} (hi : isInit i = false) (h : exec i s = .next t)
    (ht : t.err = 0) : Accepted t ∧ s.err = 0 := by
  rcases next_of_execDecoded (d := .instr i) h with ⟨-, rfl⟩ | ⟨len, l, hd, -, -⟩ | ⟨_, _, -, -, -, rfl⟩ |
    ⟨-, -, rfl⟩ | ⟨c, -, rfl⟩
  · exact ⟨accepted_respondOk _ _, ht⟩
  · cases hd
    cases hi
  · exact ⟨accepted_respondOk _ _, ht⟩
  · exact ⟨accepted_respondOk _ _, ht⟩
  · exact absurd ht (reject_err_ne_zero c s)

/-- Settles O44, by induction on the commands: no error at the end means none after the first command, and
`accepted_of_exec_of_err_eq_zero` carries that back over it. -/
theorem zeroErrMeansAllAccepted : Obligations.ZeroErrMeansAllAccepted := by
  intro cmds s t hc h ht
  induction cmds generalizing s with
  | nil =>
    obtain rfl : s = t := by simpa [execAll] using h
    exact ⟨trivial, ht⟩
  | cons i rest ih =>
    obtain ⟨hi, hrest⟩ := List.forall_mem_cons.mp hc
    obtain ⟨u, hu⟩ := exec_completes i s
    rw [execAll_cons_of_next hu] at h
    obtain ⟨hall, huErr⟩ := ih u hrest h
    obtain ⟨hacc, hsErr⟩ := accepted_of_exec_of_err_eq_zero hi hu huErr
    exact ⟨⟨u, hu, hacc, hall⟩, hsErr⟩

/-! ### The codes of each interaction (R107, R131) -/

theorem tableCode_init_cases (len : Byte) (l : Lanes) (p : Phase) :
    tableCode (.init len l) p = 0 ∨ tableCode (.init len l) p = 1 := by
  rw [tableCode]
  exact ite_eq_or_eq _ _ _

theorem tableCode_update_cases (len : Byte) (l : Lanes) (p : Phase) :
    tableCode (.update len l) p = 0 ∨ tableCode (.update len l) p = 2 ∨ tableCode (.update len l) p = 3 ∨
      tableCode (.update len l) p = 4 := by
  cases p with
  | idle => exact .inr (.inr (.inl rfl))
  | active =>
    rcases ite_eq_or_eq (len.toNat ≤ 8) (0 : Byte) 4 with h | h
    · exact .inl h
    · exact .inr (.inr (.inr h))
  | done => exact .inr (.inl rfl)

theorem tableCode_finalize_cases (p : Phase) :
    tableCode .finalize p = 0 ∨ tableCode .finalize p = 2 ∨ tableCode .finalize p = 3 := by
  cases p <;> decide

/-- The response to a presented command word of an assigned opcode carries the table's code. -/
theorem rspCode_of_step {s t : State} {cw : CmdWord} {rest : List HostInput} {i : Instr}
    (hstep : step s = .next t) (hport : s.port = .command cw :: rest) (hdec : decode cw = .instr i) :
    ∃ r, t.rsp = some r ∧ rspCode r = tableCode i s.phase := by
  obtain ⟨u, d, hexec, hrsp, -⟩ := exec_answers_table i { s with port := rest }
  rw [stepRunsTheDecodedCommand s cw rest i hport hdec] at hstep
  cases hstep.symm.trans hexec
  exact ⟨_, hrsp, rspCode_rspWord _ d⟩

/-- Settles O48: the opcode picks a row of the table, and a row's codes are those of `tableCode_init_cases` and its
like; a reserved opcode answers too, and has no row of R131. -/
theorem hostGetsBackTheCodesOfItsInteraction : Obligations.HostGetsBackTheCodesOfItsInteraction := by
  intro s t hstep
  refine ⟨fun hport => ?_, fun cw rest hport => ?_⟩
  · cases (step_of_port_nil s hport).symm.trans hstep
    exact accepted_respondOk 0 s
  rcases opcode_cases (opField cw) with hop | hop | hop | hop | hop
  · obtain ⟨r, hr, hcode⟩ := rspCode_of_step hstep hport (decode_nop hop)
    exact ⟨r, hr, by simp [hop, hcode, tableCode]⟩
  · obtain ⟨r, hr, hcode⟩ := rspCode_of_step hstep hport (decode_init hop)
    exact ⟨r, hr, by simpa [hop, hcode] using tableCode_init_cases _ _ _⟩
  · obtain ⟨r, hr, hcode⟩ := rspCode_of_step hstep hport (decode_update hop)
    exact ⟨r, hr, by simpa [hop, hcode] using tableCode_update_cases _ _ _⟩
  · obtain ⟨r, hr, hcode⟩ := rspCode_of_step hstep hport (decode_finalize hop)
    exact ⟨r, hr, by simpa [hop, hcode] using tableCode_finalize_cases _⟩
  · cases (stepRejectsReservedOpcodes s cw rest hport hop).symm.trans hstep
    exact ⟨_, rfl, by bv_omega, by bv_omega, by bv_omega, by bv_omega⟩

end Sys2Proof.Machine

/-! ## Reset and the lifecycle

Proofs of the statements of spec/70_reset_and_hazards.md. -/

namespace Sys2Proof.Machine

/-! ### The lifecycle (R126) -/

/-- A command ends in the phase of R126's table. -/
theorem phase_of_exec {i : Instr} {s t : State} (h : exec i s = .next t) : t.phase = tablePhase i s.phase := by
  obtain ⟨u, d, hexec, -, hphase, -⟩ := exec_answers_table i s
  cases h.symm.trans hexec
  exact hphase

/-- Outside IDLE a decoded command word does not lead into IDLE: it keeps the phase, or it writes ACTIVE or DONE. -/
theorem execDecoded_phase_ne_idle {d : Decoded} {s t : State} (hs : s.phase ≠ .idle) (h : execDecoded d s = .next t) :
    t.phase ≠ .idle := by
  rcases next_of_execDecoded h with ⟨-, rfl⟩ | ⟨_, _, -, -, rfl⟩ | ⟨_, _, -, -, -, rfl⟩ | ⟨-, -, rfl⟩ | ⟨c, -, rfl⟩
  case inr.inl => exact Phase.noConfusion
  case inr.inr.inr.inl => exact Phase.noConfusion
  all_goals exact hs

/-- A step that leads back into IDLE takes a reset. -/
theorem port_reset_of_step_to_idle {s t : State} (h : step s = .next t) (hs : s.phase ≠ .idle) (ht : t.phase = .idle) :
    ∃ rest, s.port = .reset :: rest := by
  rcases step_cases s with ⟨-, hstep⟩ | ⟨rest, hport, -⟩ | ⟨cw, rest, -, hstep⟩
  · cases hstep.symm.trans h
    exact absurd ht hs
  · exact ⟨rest, hport⟩
  · exact absurd ht (execDecoded_phase_ne_idle (s := { s with port := rest }) hs (hstep.symm.trans h))

/-- Settles O40: what the port holds fixes the next state, a command's phase is that of `phase_of_exec`, and the way
back to IDLE is `port_reset_of_step_to_idle`. -/
theorem lifecycleTable : Obligations.LifecycleTable := by
  intro s t h
  refine ⟨fun hport => ?_, fun rest hport => ?_, fun cw rest i hport hdec => ?_, fun cw rest op hport hdec => ?_,
    port_reset_of_step_to_idle h⟩
  · cases (step_of_port_nil s hport).symm.trans h
    rfl
  · cases (step_of_port_reset s rest hport).symm.trans h
    rfl
  · rw [stepRunsTheDecodedCommand s cw rest i hport hdec] at h
    exact phase_of_exec (s := { s with port := rest }) h
  · rw [step_of_port_command s cw rest hport, hdec] at h
    cases h
    rfl

/-! ### The outputs after a reset (R122) -/

theorem status_of_idle_of_err_eq_zero {s : State} (hphase : s.phase = .idle) (herr : s.err = 0) : status s = 0x00 := by
  rw [status, hphase, herr]
  rfl

theorem digestOut_of_idle {s : State} (hphase : s.phase = .idle) : digestOut s = 0 := by
  simp [digestOut_eq, hphase]

/-- Settles O36: the state after a reset step is `applyReset`'s, and both outputs follow from its phase and `err`
alone, whatever the reset left in the hashing state. -/
theorem stepTakesReset : Obligations.StepTakesReset :=
  fun s rest hport =>
    ⟨_, step_of_port_reset s rest hport, rfl, rfl, status_of_idle_of_err_eq_zero rfl rfl, digestOut_of_idle rfl, rfl⟩

/-- Settles O38: the outputs follow from phase IDLE and `err` 0, not from the zeros `State.reset` names elsewhere. -/
theorem resetStateOutputs : Obligations.ResetStateOutputs :=
  ⟨rfl, rfl, status_of_idle_of_err_eq_zero rfl rfl, digestOut_of_idle rfl⟩

end Sys2Proof.Machine
